-- ==== Sys2Proof/Word.lean ====
section
/-! DEFINITION. The widths the block's registers have (00_scope.md R6): every value is an unsigned
integer of a stated width, and arithmetic wraps at the width of the destination. -/

namespace Sys2Proof

/-- A byte of a datagram or of an array (R7). -/
abbrev Byte := BitVec 8

/-- A 16-bit register or header field. -/
abbrev Half := BitVec 16

/-- A 32-bit register, header field or command word. -/
abbrev Word := BitVec 32

end Sys2Proof
end

