-- ==== Sys2Proof/Config.lean ====
section
/-! DEFINITION. The implementation parameters of 00_scope.md R5, and the free values: constants
with no body, so that nothing can be proved about which value they have. -/

namespace Sys2Proof

/-- What a wait loop does with a datagram whose header-length field is bad (R5, D13). -/
inductive BadHlenPolicy where
  | drop
  | fault
  deriving DecidableEq, Repr, Inhabited

/-- The four open parameters of R5. They are held in State so that a statement about every state is
a statement about every choice of them (log 1). -/
structure Config where
  /-- `MAX_SEG`: the capacity in bytes of BUF and of a datagram. -/
  maxSeg : Nat
  /-- `TX_WINDOW`: the window field of every segment the FSM unit builds. -/
  txWindow : Half
  /-- `FLAG_MASK`: the bits of the flags field the FSM unit compares. -/
  flagMask : Half
  /-- `BAD_HLEN_POLICY`. -/
  badHlen : BadHlenPolicy
  deriving DecidableEq, Repr

/-- The default values of R5. -/
def Config.standard : Config :=
  { maxSeg := 65535, txWindow := 0xFFFF#16, flagMask := 0x0FFF#16, badHlen := .drop }

/-- The constraints of R5 on the open parameters. -/
abbrev Config.Legal (c : Config) : Prop :=
  20 ≤ c.maxSeg ∧ c.maxSeg ≤ 65535 ∧ c.flagMask &&& 0xF000#16 = 0#16 ∧
    c.flagMask &&& 0x001F#16 = 0x001F#16

/-- `MAX_OPT` (R5). -/
def maxOpt : Nat := 40

/-- `MAX_PAY` (R5). -/
def Config.maxPay (c : Config) : Nat := c.maxSeg - 20

/-- The three byte arrays (20_memory.md R40). -/
inductive Arr where
  | buf
  | opt
  | pay
  deriving DecidableEq, Repr

/-- The capacity of an array in bytes (R20, R21, R23). -/
def Config.capacity (c : Config) : Arr → Nat
  | .buf => c.maxSeg
  | .opt => maxOpt
  | .pay => c.maxPay

/-- The link's answer to a `LinkTx` (R52). -/
inductive TxAnswer where
  | ok
  | err (e : Word)
  deriving DecidableEq, Repr, Inhabited

/-- FREE VALUE (log 7; 93_implementation_defined.md U1). The byte that an array index holds while
nothing has been written there since the last reset: `epoch` counts the resets. -/
opaque Config.unspecifiedByte (epoch : Nat) (a : Arr) (i : Nat) : Byte

/-- FREE VALUE (log 3; R133). The `n`-th draw, where no draw was supplied in State. -/
opaque Config.freeDraw (n : Nat) : Word

/-- FREE VALUE (log 4; R52). The link's answer to the `n`-th `LinkTx`, where none was supplied in
State. -/
opaque Config.freeAnswer (n : Nat) : TxAnswer

end Sys2Proof
end

