-- ==== Sys2Proof/Syntax.lean ====
section
/-! DEFINITION. The instructions: one constructor for each row of spec/opcode_table.json. -/

namespace Sys2Proof

/-- The thirteen commands by name (30_encoding.md R75). -/
inductive Cmd where
  | csumClr
  | csumAdd
  | csumAddw
  | csumFin
  | csumSeg
  | decode
  | encode
  | ctxLoad
  | connect
  | accept
  | recv
  | send
  | close
  deriving DecidableEq, Repr

/-- The five segment kinds by name (30_encoding.md R69). -/
inductive Kind where
  | syn
  | synAck
  | ack
  | pshAck
  | finAck
  deriving DecidableEq, Repr

/-- What the block is given to act on: a command word that the host writes to CMD (formats C0 and
CI, R72), or, at a `LinkRx()` point, the 16-bit flags field of the datagram the link offers (format
SEGKIND, R69). A segment kind carries the bits its pattern leaves open: the header-length field
`hl` (bits 15 to 12) and the reserved bits `rsv` (bits 11 to 5) (R61; log 10). -/
inductive Instr where
  /-- CSUM_CLR (R95) -/
  | csumClr
  /-- CSUM_ADD (R93) -/
  | csumAdd
  /-- CSUM_ADDW #imm16 (R94) -/
  | csumAddw (imm : Half)
  /-- CSUM_FIN (R97) -/
  | csumFin
  /-- CSUM_SEG (R99) -/
  | csumSeg
  /-- DECODE (R111) -/
  | decode
  /-- ENCODE (R113) -/
  | encode
  /-- CTX_LOAD (R139) -/
  | ctxLoad
  /-- CONNECT (R140) -/
  | connect
  /-- ACCEPT (R141) -/
  | accept
  /-- RECV (R142) -/
  | recv
  /-- SEND (R143) -/
  | send
  /-- CLOSE (R144) -/
  | close
  /-- SEG_SYN (R69) -/
  | segSyn (hl : BitVec 4) (rsv : BitVec 7)
  /-- SEG_SYN_ACK (R69) -/
  | segSynAck (hl : BitVec 4) (rsv : BitVec 7)
  /-- SEG_ACK (R69) -/
  | segAck (hl : BitVec 4) (rsv : BitVec 7)
  /-- SEG_PSH_ACK (R69) -/
  | segPshAck (hl : BitVec 4) (rsv : BitVec 7)
  /-- SEG_FIN_ACK (R69) -/
  | segFinAck (hl : BitVec 4) (rsv : BitVec 7)
  deriving DecidableEq, Repr

end Sys2Proof
end

