-- ==== Sys2Proof/WellFormed.lean ====
section
/-! DEFINITION. Which instructions have a word. A command always has one: its one operand fills its
field. A segment kind is a pattern of `flags & FLAG_MASK` (30_encoding.md R65, R69), so a reserved
bit that the mask covers must be 0 in it. -/

namespace Sys2Proof

/-- The reserved bits at their places 11 to 5 of the flags field (R61). -/
def reservedAt (rsv : BitVec 7) : Half := rsv.setWidth 16 <<< 5

/-- The bits of the pattern are as the mask asks: no covered reserved bit is set. -/
def reservedClear (mask : Half) (rsv : BitVec 7) : Bool := reservedAt rsv &&& mask == 0#16

/-- Well-formed under a flag mask. -/
def Instr.wf (mask : Half) : Instr → Bool
  | .csumClr => true
  | .csumAdd => true
  | .csumAddw _ => true
  | .csumFin => true
  | .csumSeg => true
  | .decode => true
  | .encode => true
  | .ctxLoad => true
  | .connect => true
  | .accept => true
  | .recv => true
  | .send => true
  | .close => true
  | .segSyn _ rsv => reservedClear mask rsv
  | .segSynAck _ rsv => reservedClear mask rsv
  | .segAck _ rsv => reservedClear mask rsv
  | .segPshAck _ rsv => reservedClear mask rsv
  | .segFinAck _ rsv => reservedClear mask rsv

/-- The mask spec/opcode_table.json gives the segment kinds: FLAG_MASK at its default (R65). -/
def tableMask : Half := 0x0FFF#16

/-- Well-formed as the opcode table has it. -/
def WellFormed (i : Instr) : Prop := i.wf tableMask = true

end Sys2Proof
end

