-- ==== Sys2Proof/Decode.lean ====
section
/-! DEFINITION. Decoding and encoding of the two formats of 30_encoding.md: the 32-bit command word
(R72 to R75) and the 16-bit flags field of a segment (R61 to R69); with the byte-order helpers of
00_scope.md R7 that both the wire and the decoder use. -/

namespace Sys2Proof

/-! ### Bytes and fields (R6, R7) -/

/-- `be16(B, i)` of R7. An index past the end reads 0 here; no rule reads one. -/
def be16 (B : List Byte) (i : Nat) : Half := B.getD i 0#8 ++ B.getD (i + 1) 0#8

/-- `be32(B, i)` of R7. -/
def be32 (B : List Byte) (i : Nat) : Word := be16 B i ++ be16 B (i + 2)

/-- `bytes16(v)` of R7. -/
def bytes16 (v : Half) : List Byte := [v.extractLsb' 8 8, v.extractLsb' 0 8]

/-- `bytes32(v)` of R7. -/
def bytes32 (v : Word) : List Byte :=
  [v.extractLsb' 24 8, v.extractLsb' 16 8, v.extractLsb' 8 8, v.extractLsb' 0 8]

/-! ### The command word (R72 to R75) -/

/-- OPC, bits 7 to 0. -/
def opcField (w : Word) : BitVec 8 := w.extractLsb' 0 8

/-- IMM16, bits 23 to 8 (R73). -/
def imm16Field (w : Word) : Half := w.extractLsb' 8 16

/-- Bits 31 to 8, reserved in format C0 (R72). -/
def c0Reserved (w : Word) : BitVec 24 := w.extractLsb' 8 24

/-- Bits 31 to 24, reserved in format CI (R72). -/
def ciReserved (w : Word) : BitVec 8 := w.extractLsb' 24 8

/-- The OPC column of R75. -/
def Cmd.opcode : Cmd → BitVec 8
  | .csumClr => 0x01#8
  | .csumAdd => 0x02#8
  | .csumAddw => 0x03#8
  | .csumFin => 0x04#8
  | .csumSeg => 0x05#8
  | .decode => 0x10#8
  | .encode => 0x11#8
  | .ctxLoad => 0x20#8
  | .connect => 0x21#8
  | .accept => 0x22#8
  | .recv => 0x23#8
  | .send => 0x24#8
  | .close => 0x25#8

/-- The rows of R75, in order. -/
def Cmd.all : List Cmd :=
  [.csumClr, .csumAdd, .csumAddw, .csumFin, .csumSeg, .decode, .encode,
   .ctxLoad, .connect, .accept, .recv, .send, .close]

/-- The command an OPC selects, if it is one of the thirteen. -/
def Cmd.ofOpcode (o : BitVec 8) : Option Cmd := Cmd.all.find? fun c => c.opcode == o

/-- The instruction a command is, given the immediate of its word: CSUM_ADDW is the only format CI
command (R72). -/
def Cmd.toInstr (imm : Half) : Cmd → Instr
  | .csumClr => .csumClr
  | .csumAdd => .csumAdd
  | .csumAddw => .csumAddw imm
  | .csumFin => .csumFin
  | .csumSeg => .csumSeg
  | .decode => .decode
  | .encode => .encode
  | .ctxLoad => .ctxLoad
  | .connect => .connect
  | .accept => .accept
  | .recv => .recv
  | .send => .send
  | .close => .close

/-- The reserved bits of the command's format are all 0 (R72, R74). -/
def Cmd.reservedZero (c : Cmd) (w : Word) : Bool :=
  match c with
  | .csumAddw => ciReserved w == 0#8
  | _ => c0Reserved w == 0#24

/-- Why bits are no instruction. -/
inductive DecodeError where
  /-- OPC is not one of the thirteen (R74). -/
  | unassignedOpcode (opc : BitVec 8)
  /-- A reserved bit of the command's format is 1 (R74). -/
  | reservedBits (w : Word)
  /-- The control bits are none of the five kinds: "any other flag combination" (R69). -/
  | otherFlags (ctrl : Half)
  deriving DecidableEq, Repr

/-- Decoding a word written to CMD (R74, R75). -/
def decodeCommand (w : Word) : Except DecodeError Instr :=
  match Cmd.ofOpcode (opcField w) with
  | none => .error (.unassignedOpcode (opcField w))
  | some c =>
    if c.reservedZero w then .ok (c.toInstr (imm16Field w)) else .error (.reservedBits w)

/-! ### The flags field (R61 to R69) -/

/-- The flag constants of R62. -/
def flagFIN : Half := 0x0001#16
def flagSYN : Half := 0x0002#16
def flagRST : Half := 0x0004#16
def flagPSH : Half := 0x0008#16
def flagACK : Half := 0x0010#16

/-- HL, bits 15 to 12 of the flags field (R61). -/
def hlField (f : Half) : BitVec 4 := f.extractLsb' 12 4

/-- The reserved bits 11 to 5 of the flags field (R61). -/
def rsvField (f : Half) : BitVec 7 := f.extractLsb' 5 7

/-- `ctrl(f) = f & FLAG_MASK` (R65). -/
def ctrl (mask f : Half) : Half := f &&& mask

/-- The value column of R69. -/
def Kind.flags : Kind → Half
  | .syn => flagSYN
  | .synAck => flagSYN ||| flagACK
  | .ack => flagACK
  | .pshAck => flagPSH ||| flagACK
  | .finAck => flagFIN ||| flagACK

/-- The rows of R69, in order. -/
def Kind.all : List Kind := [.syn, .synAck, .ack, .pshAck, .finAck]

/-- The kind whose value the control bits have (R69). -/
def Kind.ofCtrl (c : Half) : Option Kind := Kind.all.find? fun k => k.flags == c

/-- The instruction a segment kind is, with the open bits of its flags field. -/
def Kind.toInstr (hl : BitVec 4) (rsv : BitVec 7) : Kind → Instr
  | .syn => .segSyn hl rsv
  | .synAck => .segSynAck hl rsv
  | .ack => .segAck hl rsv
  | .pshAck => .segPshAck hl rsv
  | .finAck => .segFinAck hl rsv

/-- Decoding the flags field of an offered datagram, under a flag mask (R65, R69). -/
def decodeFlags (mask f : Half) : Except DecodeError Instr :=
  match Kind.ofCtrl (ctrl mask f) with
  | none => .error (.otherFlags (ctrl mask f))
  | some k => .ok (k.toInstr (hlField f) (rsvField f))

/-! ### Encoding -/

/-- The bits of an instruction: a command word, or the flags field of a segment. -/
inductive Encoded where
  | command (w : Word)
  | flags (f : Half)
  deriving DecidableEq, Repr

/-- A format C0 word (R72). -/
def encodeC0 (c : Cmd) : Word := c.opcode.setWidth 32

/-- A format CI word: `(imm16 << 8) | OPC` (R72, R94). -/
def encodeCI (c : Cmd) (imm : Half) : Word := imm.setWidth 32 <<< 8 ||| c.opcode.setWidth 32

/-- A flags field from its three parts (R61). -/
def flagsField (hl : BitVec 4) (rsv : BitVec 7) (k : Kind) : Half :=
  hl.setWidth 16 <<< 12 ||| reservedAt rsv ||| k.flags

/-- The bits of an instruction (R69, R75). -/
def encode : Instr → Encoded
  | .csumClr => .command (encodeC0 .csumClr)
  | .csumAdd => .command (encodeC0 .csumAdd)
  | .csumAddw imm => .command (encodeCI .csumAddw imm)
  | .csumFin => .command (encodeC0 .csumFin)
  | .csumSeg => .command (encodeC0 .csumSeg)
  | .decode => .command (encodeC0 .decode)
  | .encode => .command (encodeC0 .encode)
  | .ctxLoad => .command (encodeC0 .ctxLoad)
  | .connect => .command (encodeC0 .connect)
  | .accept => .command (encodeC0 .accept)
  | .recv => .command (encodeC0 .recv)
  | .send => .command (encodeC0 .send)
  | .close => .command (encodeC0 .close)
  | .segSyn hl rsv => .flags (flagsField hl rsv .syn)
  | .segSynAck hl rsv => .flags (flagsField hl rsv .synAck)
  | .segAck hl rsv => .flags (flagsField hl rsv .ack)
  | .segPshAck hl rsv => .flags (flagsField hl rsv .pshAck)
  | .segFinAck hl rsv => .flags (flagsField hl rsv .finAck)

/-- Decoding of either format, under a flag mask. -/
def decodeEncoded (mask : Half) : Encoded → Except DecodeError Instr
  | .command w => decodeCommand w
  | .flags f => decodeFlags mask f

/-- The host's probe: a table word of more than 16 bits is a command word, one of at most 16 bits is
a flags field, laid out in a segment big endian (20_memory.md R41) and read back under the table's
mask. -/
def decodeTableWord (nbits w : Nat) : Option Instr :=
  let bits : Encoded :=
    if 16 < nbits then .command (BitVec.ofNat 32 w)
    else .flags (be16 (bytes16 (BitVec.ofNat 16 w)) 0)
  match decodeEncoded tableMask bits with
  | .ok i => some i
  | .error _ => none

end Sys2Proof
end

