-- ==== Sys2Proof/Machine/State.lean ====
section
/-! DEFINITION. The state of one block (10_state.md R10), with the parameters and the outside agents
held beside it as plain data. Every group below is a row of R10's table, but for `cfg`, `epoch` and
`env`, which are the model's own (log 1, 7, 2). -/

namespace Sys2Proof.Machine

open Sys2Proof

/-- The contents of a byte array: (index, byte) pairs with strictly rising indices. An index that
is not listed has not been written since the last reset (log 7). -/
abbrev Memory := List Host.Cell

/-- The connection state (10_state.md R12). -/
inductive ConnState where
  | closed
  | synSent
  | synRcvd
  | established
  deriving DecidableEq, Repr

/-- The completion codes (60_exceptions.md R170). -/
inductive Code where
  /-- 0x00, every command. -/
  | ok
  /-- 0x01, a CMD write of an illegal word (R172). -/
  | eIllegalCmd
  /-- 0x02, an FSM command in the wrong STATE (R173). -/
  | eState
  /-- 0x03, DECODE (R174). -/
  | eShort
  /-- 0x04, DECODE (R174). -/
  | eHlenLow
  /-- 0x05, DECODE (R174). -/
  | eHlenHigh
  /-- 0x06, ENCODE and CSUM_SEG (R175). -/
  | eTooLong
  /-- 0x07, CONNECT and ACCEPT (R176). -/
  | eHandshake
  /-- 0x08, SEND (R177). -/
  | eBrokenPipe
  /-- 0x09, CONNECT, ACCEPT, RECV and SEND (R178). -/
  | eIo
  /-- 0x0A, CONNECT, ACCEPT, RECV and SEND under policy `fault` (R179). -/
  | eMalformed
  deriving DecidableEq, Repr

/-- PHASE (10_state.md R31). -/
inductive Phase where
  | idle
  | rxWait
  deriving DecidableEq, Repr

/-- The eight header fields (10_state.md R19; 30_encoding.md R60), as numbers (20_memory.md R41). -/
structure Header where
  src : Half
  dst : Half
  seqnum : Word
  acknum : Word
  flags : Half
  window : Half
  checksum : Half
  urgent : Half
  deriving DecidableEq, Repr

/-- A segment as a value: what `decode` returns and `encode` takes (41_codec.md R110, R113). -/
structure Segment where
  hdr : Header
  opt : List Byte
  pay : List Byte
  deriving DecidableEq, Repr

/-- The connection context (10_state.md R12 to R18). -/
structure Context where
  state : ConnState
  paddr : Word
  pport : Half
  lport : Half
  seq : Word
  ack : Word
  deriving DecidableEq, Repr

/-- The segment register file S (10_state.md R19 to R21). -/
structure SegRegs where
  hdr : Header
  optlen : BitVec 6
  opt : Memory
  paylen : Half
  pay : Memory
  deriving DecidableEq, Repr

/-- The datagram buffer BUF and BUFLEN (10_state.md R23). -/
structure DgramBuf where
  len : Half
  bytes : Memory
  deriving DecidableEq, Repr

/-- The checksum unit's registers SUM and CSUMOUT (10_state.md R24, R25). -/
structure ChecksumRegs where
  sum : Word
  out : Half
  deriving DecidableEq, Repr

/-- STATUS, RESULT, IOERR and COUNT (10_state.md R27 to R30). STATUS has two bits of storage. -/
structure Completion where
  busy : Bool
  wref : Bool
  result : Code
  ioerr : Word
  count : Word
  deriving DecidableEq, Repr

/-- The hidden sequencing state (10_state.md R31), with SEND's `k` (42_fsm.md R143; log 9). -/
structure Hidden where
  cur : Cmd
  phase : Phase
  sendLen : Half
  deriving DecidableEq, Repr

/-! ### The outside agents -/

/-- The registers a host can name (20_memory.md R47, R48). -/
inductive Reg where
  | cmd
  | status
  | result
  | ioerr
  | count
  | laddr
  | state
  | paddr
  | pport
  | lport
  | seq
  | ack
  | sum
  | csumout
  | buflen
  | sSrc
  | sDst
  | sSeqnum
  | sAcknum
  | sFlags
  | sWindow
  | sChecksum
  | sUrgent
  | sOptlen
  | sPaylen
  deriving DecidableEq, Repr

/-- The four host access forms (20_memory.md R47). -/
inductive HostOp where
  | read (r : Reg)
  | write (r : Reg) (w : Word)
  | readByte (a : Arr) (i : Nat)
  | writeByte (a : Arr) (i : Nat) (b : Byte)
  deriving DecidableEq, Repr

/-- The same accesses by byte offset from the block's base (20_memory.md R48). -/
inductive BusOp where
  | readWord (off : Nat)
  | writeWord (off : Nat) (w : Word)
  | readByte (off : Nat)
  | writeByte (off : Nat) (b : Byte)
  deriving DecidableEq, Repr

/-- What the block answers a host access (20_memory.md R47; 10_state.md R36). -/
inductive Reply where
  /-- No access has been made since reset. -/
  | none
  | ok
  | word (w : Word)
  | byte (b : Byte)
  | refused
  deriving DecidableEq, Repr

/-- What the link offers at a `LinkRx()` point (20_memory.md R51). -/
inductive LinkEvent where
  | dgram (B : List Byte)
  | err (e : Word)
  deriving DecidableEq, Repr

/-- One input of the block (log 2). -/
inductive Input where
  | host (op : HostOp)
  | bus (op : BusOp)
  | link (ev : LinkEvent)
  | reset
  deriving DecidableEq, Repr

/-- One link event that has happened (20_memory.md R57; log 13). -/
inductive LinkAct where
  | tx (B : List Byte) (a : TxAnswer)
  | rx (ev : LinkEvent)
  deriving DecidableEq, Repr

/-- The outside agents as plain data: what they will do next, and what has passed between them and
the block (log 2, 3, 4, 13). -/
structure Env where
  /-- The inputs to come, first one first. -/
  inbox : List Input
  /-- The draws the environment has ready, first one first. -/
  draws : List Word
  drawCount : Nat
  /-- The link's answers that are ready, first one first. -/
  txAnswers : List TxAnswer
  txCount : Nat
  /-- The link events so far, oldest first. -/
  trace : List LinkAct
  /-- The answer to the last host access. -/
  reply : Reply
  deriving DecidableEq, Repr

/-! ### The state -/

/-- The state of the machine. -/
structure State where
  /-- The implementation parameters (R5; log 1). -/
  cfg : Config
  /-- LADDR (R11). -/
  laddr : Word
  ctx : Context
  seg : SegRegs
  buf : DgramBuf
  chk : ChecksumRegs
  cc : Completion
  hid : Hidden
  /-- How many resets there have been: names the unspecified array contents (U1; log 7). -/
  epoch : Nat
  env : Env
  deriving DecidableEq, Repr

/-- A step of the block never faults: "Nothing in the block is *undefined*: every command word,
every register value and every datagram has a stated outcome" (60_exceptions.md R184 c), and a wait
is "not faulted and not final" (20_memory.md R51). So there is no fault for a step to name. -/
inductive Fault where
  deriving DecidableEq, Repr

/-- Why a step has no meaning. No step of this model is refused. -/
inductive Refusal where
  /-- Kept for an arm of `exec` that has no meaning yet: none has this form. Safe: the run stops. -/
  | notModelled (mnemonic : String)
  deriving DecidableEq, Repr

/-- The state after reset with the default parameters (10_state.md R37; 70_reset_and_hazards.md
R200). The spec gives every register's value; CUR is unspecified there (log 8), `sendLen` is log 9,
and the environment has offered nothing yet. -/
def State.reset : State where
  cfg := Config.standard
  laddr := 0x00000000#32
  ctx :=
    { state := .closed, paddr := 0x00000000#32, pport := 0x0000#16, lport := 0x0000#16
      seq := 0x00000000#32, ack := 0x00000000#32 }
  seg :=
    { hdr :=
        { src := 0x0000#16, dst := 0x0000#16, seqnum := 0x00000000#32, acknum := 0x00000000#32
          flags := 0x0000#16, window := 0x0000#16, checksum := 0x0000#16, urgent := 0x0000#16 }
      optlen := 0#6, opt := [], paylen := 0#16, pay := [] }
  buf := { len := 0#16, bytes := [] }
  chk := { sum := 0x00000000#32, out := 0x0000#16 }
  cc := { busy := false, wref := false, result := .ok, ioerr := 0x00000000#32
          count := 0x00000000#32 }
  hid := { cur := .csumClr, phase := .idle, sendLen := 0#16 }
  epoch := 0
  env := { inbox := [], draws := [], drawCount := 0, txAnswers := [], txCount := 0
           trace := [], reply := .none }

end Sys2Proof.Machine
end

