-- ==== Sys2Proof/Machine/Ops.lean ====
section
/-! DEFINITION. The named operations over arrays and registers, the two ways a command ends (`raise`
and `done` of 00_scope.md R8, the block's exception), and the link primitives. -/

namespace Sys2Proof.Machine

open Sys2Proof

/-! ### Byte arrays -/

/-- The byte stored at an index, if one has been written since the last reset. -/
def Memory.read (m : Memory) (i : Nat) : Option Byte :=
  match m with
  | [] => none
  | (j, b) :: rest => if j = i then some b else Memory.read rest i

/-- Storing one byte. -/
def Memory.write (m : Memory) (i : Nat) (b : Byte) : Memory :=
  match m with
  | [] => [(i, b)]
  | (j, c) :: rest =>
    if i < j then (i, b) :: (j, c) :: rest
    else if i = j then (i, b) :: rest
    else (j, c) :: Memory.write rest i b

/-- Storing a byte sequence from an index on (R8, `x[i] <- v` for each byte). -/
def Memory.writeBytes (m : Memory) (i : Nat) (B : List Byte) : Memory :=
  match B with
  | [] => m
  | b :: rest => Memory.writeBytes (Memory.write m i b) (i + 1) rest

/-- The canonical form: strictly rising indices. -/
def Memory.wf (m : Memory) : Bool :=
  match m with
  | [] => true
  | (i, _) :: rest => rest.all (fun c => decide (i < c.1)) && Memory.wf rest

/-- Every listed index is inside a capacity. -/
def Memory.within (m : Memory) (cap : Nat) : Bool := m.all fun c => decide (c.1 < cap)

/-- The contents of one of the three arrays. -/
def arrayOf (s : State) : Arr → Memory
  | .buf => s.buf.bytes
  | .opt => s.seg.opt
  | .pay => s.seg.pay

/-- The byte of an array at an index: what was stored there, or, where nothing has been stored since
the last reset, a free value (93_implementation_defined.md U1; log 7). -/
def readArr (s : State) (a : Arr) (i : Nat) : Byte :=
  (Memory.read (arrayOf s a) i).getD (Config.unspecifiedByte s.epoch a i)

/-- The first `n` bytes of an array: `A[0..n]` of R7. -/
def readBytes (s : State) (a : Arr) (n : Nat) : List Byte := (List.range n).map (readArr s a)

/-- Storing one byte of an array. -/
def writeArr (s : State) (a : Arr) (i : Nat) (b : Byte) : State :=
  match a with
  | .buf => { s with buf.bytes := Memory.write s.buf.bytes i b }
  | .opt => { s with seg.opt := Memory.write s.seg.opt i b }
  | .pay => { s with seg.pay := Memory.write s.seg.pay i b }

/-! ### Completion (R8; 60_exceptions.md R182) -/

/-- What every completion writes: RESULT, BUSY, PHASE. -/
def complete (c : Code) (s : State) : State :=
  { s with cc.result := c, cc.busy := false, hid.phase := .idle }

/-- TAKING AN EXCEPTION: `raise <Code>(info)` of R8. IOERR is written when the code is E_IO and by
nothing else (10_state.md R29). Nothing is saved and no handler is entered: the host finds BUSY = 0
(R182). There is no return from it (R183): the next command overwrites RESULT. -/
def raise (c : Code) (info : Word) (s : State) : State :=
  match c with
  | .eIo => complete c { s with cc.ioerr := info }
  | _ => complete c s

/-- `done(count)` of R8. -/
def done (n : Word) (s : State) : State := complete .ok { s with cc.count := n }

/-! ### Host accesses and the start of a command -/

/-- A refused access: sets WREF and changes nothing else of the block (10_state.md R36). -/
def refuse (s : State) : State := { s with cc.wref := true, env.reply := .refused }

/-- A write of a command word while BUSY = 1 is refused and issues nothing (10_state.md R26). -/
def issue (run : State → State) (s : State) : State := if s.cc.busy then refuse s else run s

/-- The answer to a host access. -/
def answer (r : Reply) (s : State) : State := { s with env.reply := r }

/-! ### Connection state, draws and the link -/

/-- `STATE <- c`. -/
def setConn (c : ConnState) (s : State) : State := { s with ctx.state := c }

/-- `SEQ <- a` and `ACK <- b`. -/
def setCounters (a b : Word) (s : State) : State := { s with ctx.seq := a, ctx.ack := b }

/-- The value of the next `Draw32()` (R133): a draw the environment has ready, else a free value. -/
def nextDraw (s : State) : Word := s.env.draws.head?.getD (Config.freeDraw s.env.drawCount)

/-- The draw has been made. -/
def takeDraw (s : State) : State :=
  { s with env.draws := s.env.draws.tail, env.drawCount := s.env.drawCount + 1 }

/-- The link's answer to the next `LinkTx` (20_memory.md R52): one it has ready, else a free
value. -/
def nextAnswer (s : State) : TxAnswer :=
  s.env.txAnswers.head?.getD (Config.freeAnswer s.env.txCount)

/-- `LinkTx(B)` has been made: the whole of `B` was given to the link as one datagram (R52). -/
def linkTx (B : List Byte) (s : State) : State :=
  { s with
    env.txAnswers := s.env.txAnswers.tail
    env.txCount := s.env.txCount + 1
    env.trace := s.env.trace ++ [.tx B (nextAnswer s)] }

/-- `LinkTx(B)` and what follows each answer. -/
def transmit (B : List Byte) (onErr : Word → State → State) (onOk : State → State) (s : State) :
    State :=
  match nextAnswer s with
  | .ok => onOk (linkTx B s)
  | .err e => onErr e (linkTx B s)

/-- The command waits: BUSY = 1, CUR its opcode, PHASE = RXWAIT (10_state.md R31). -/
def enterWait (c : Cmd) (s : State) : State :=
  { s with cc.busy := true, hid.cur := c, hid.phase := .rxWait }

/-- The link's event has been taken by the block (R51): recorded in order (R57). -/
def takeEvent (ev : LinkEvent) (s : State) : State :=
  { s with env.trace := s.env.trace ++ [.rx ev] }

/-- A datagram from the link goes to BUF, cut to MAX_SEG bytes (20_memory.md R53; 42_fsm.md R135). -/
def loadDatagram (B : List Byte) (s : State) : State :=
  { s with
    buf.bytes := Memory.writeBytes s.buf.bytes 0 (B.take s.cfg.maxSeg)
    buf.len := BitVec.ofNat 16 (B.take s.cfg.maxSeg).length }

/-! ### S and BUF as values -/

/-- `BUF[0..BUFLEN]` (R23). -/
def bufBytes (s : State) : List Byte := readBytes s .buf s.buf.len.toNat

/-- `S.OPT[0..S.OPTLEN]` (R20). -/
def optBytes (s : State) : List Byte := readBytes s .opt s.seg.optlen.toNat

/-- `S.PAY[0..S.PAYLEN]` (R21). -/
def payBytes (s : State) : List Byte := readBytes s .pay s.seg.paylen.toNat

/-- The segment S holds. -/
def segOf (s : State) : Segment := { hdr := s.seg.hdr, opt := optBytes s, pay := payBytes s }

/-- The length in bytes of the segment S holds: `20 + S.OPTLEN + S.PAYLEN`. -/
def segLen (s : State) : Nat := 20 + s.seg.optlen.toNat + s.seg.paylen.toNat

/-- `S <- r`: all of S, as DECODE writes it (41_codec.md R111). Array bytes past the new lengths
stay as they were (R20, R21). -/
def storeSegment (T : Segment) (s : State) : State :=
  { s with
    seg :=
      { hdr := T.hdr
        optlen := BitVec.ofNat 6 T.opt.length
        opt := Memory.writeBytes s.seg.opt 0 T.opt
        paylen := BitVec.ofNat 16 T.pay.length
        pay := Memory.writeBytes s.seg.pay 0 T.pay } }

/-- A byte sequence to BUF from index 0, and its length to BUFLEN (R113). -/
def storeBuf (B : List Byte) (s : State) : State :=
  { s with
    buf.bytes := Memory.writeBytes s.buf.bytes 0 B
    buf.len := BitVec.ofNat 16 B.length }

end Sys2Proof.Machine
end

