-- ==== Sys2Proof/Machine/Flags.lean ====
section
/-! DEFINITION. The computations on the flags field (30_encoding.md A.2), the numeric form of the
named codes, and the two STATUS bits as a word. -/

namespace Sys2Proof.Machine

open Sys2Proof

/-- `hlen(f) = (f & 0xF000) >> 10`, the header length in bytes (R64). -/
def hlen (f : Half) : Nat := ((f &&& 0xF000#16) >>> 10).toNat

/-- `mkflags(h, c) = ((h << 10) & 0xF000) | (c & 0x0FFF)` (R67). -/
def mkflags (h : Nat) (c : Half) : Half :=
  ((BitVec.ofNat 16 h <<< 10) &&& 0xF000#16) ||| (c &&& 0x0FFF#16)

/-- `wf(S)`: `S.OPTLEN + 20 = hlen(S.FLAGS)` (10_state.md R22). -/
abbrev segWellFormed (s : State) : Prop := s.seg.optlen.toNat + 20 = hlen s.seg.hdr.flags

/-- The control bits of the segment S holds (R65). -/
def segCtrl (s : State) : Half := ctrl s.cfg.flagMask s.seg.hdr.flags

/-- The numbers of R170. -/
def Code.value : Code → BitVec 8
  | .ok => 0x00#8
  | .eIllegalCmd => 0x01#8
  | .eState => 0x02#8
  | .eShort => 0x03#8
  | .eHlenLow => 0x04#8
  | .eHlenHigh => 0x05#8
  | .eTooLong => 0x06#8
  | .eHandshake => 0x07#8
  | .eBrokenPipe => 0x08#8
  | .eIo => 0x09#8
  | .eMalformed => 0x0A#8

/-- The numbers of 10_state.md R12. -/
def ConnState.value : ConnState → BitVec 2
  | .closed => 0#2
  | .synSent => 1#2
  | .synRcvd => 2#2
  | .established => 3#2

/-- STATUS as a host reads it: bit 0 BUSY, bit 1 WREF, bits 31 to 2 zero (10_state.md R27). -/
def statusWord (s : State) : Word :=
  0#30 ++ (BitVec.ofBool s.cc.wref ++ BitVec.ofBool s.cc.busy)

end Sys2Proof.Machine
end

