-- ==== Sys2Proof/Machine/Codec.lean ====
section
/-! DEFINITION. The codec unit (41_codec.md): `decode`, `encode`, and the commands DECODE and
ENCODE. -/

namespace Sys2Proof.Machine

open Sys2Proof

/-- The segment cut out of `B` at header length `h`, its flags field being `f` (R110). -/
def sliceSegment (f : Half) (h : Nat) (B : List Byte) : Segment where
  hdr :=
    { src := be16 B 0, dst := be16 B 2, seqnum := be32 B 4, acknum := be32 B 8
      flags := f, window := be16 B 14, checksum := be16 B 16, urgent := be16 B 18 }
  opt := (B.drop 20).take (h - 20)
  pay := B.drop h

/-- `decode(B)` of R110, its flags field given apart: the three tests in the rule's order. -/
def decodeAs (f : Half) (B : List Byte) : Except Code Segment :=
  if B.length < 20 then .error .eShort
  else if hlen f < 20 then .error .eHlenLow
  else if B.length < hlen f then .error .eHlenHigh
  else .ok (sliceSegment f (hlen f) B)

/-- `decode(B)` of R110: the flags field is `be16(B, 12)`. -/
def decodeSegment (B : List Byte) : Except Code Segment := decodeAs (be16 B 12) B

/-- The twenty header bytes (R113; 30_encoding.md R60). -/
def headerBytes (h : Header) : List Byte :=
  bytes16 h.src ++ bytes16 h.dst ++ bytes32 h.seqnum ++ bytes32 h.acknum ++
    bytes16 h.flags ++ bytes16 h.window ++ bytes16 h.checksum ++ bytes16 h.urgent

/-- `encode(T)` of R113. -/
def encodeSegment (T : Segment) : List Byte := headerBytes T.hdr ++ T.opt ++ T.pay

/-- The length of a segment: `20 + len(T.OPT) + len(T.PAY)`. -/
def Segment.length (T : Segment) : Nat := 20 + T.opt.length + T.pay.length

/-- DECODE (R111). -/
def execDecode (s : State) : Host.Outcome State Fault Refusal :=
  .next (issue (fun s =>
    match decodeSegment (bufBytes s) with
    | .error c => raise c 0#32 s
    | .ok T => done 0#32 (storeSegment T s)) s)

/-- ENCODE (R113). -/
def execEncode (s : State) : Host.Outcome State Fault Refusal :=
  .next (issue (fun s =>
    if s.cfg.maxSeg < segLen s then raise .eTooLong 0#32 s
    else done (BitVec.ofNat 32 (segLen s)) (storeBuf (encodeSegment (segOf s)) s)) s)

end Sys2Proof.Machine
end

