-- ==== Sys2Proof/Machine/Checksum.lean ====
section
/-! DEFINITION. The checksum unit (40_checksum.md): `sum16`, `fold`, `compile`, `tcpsum`, and the
commands CSUM_CLR, CSUM_ADD, CSUM_ADDW, CSUM_FIN, CSUM_SEG. -/

namespace Sys2Proof.Machine

open Sys2Proof

/-- `sum16(B)`: the sum of the big-endian 16-bit words of `B` (R90), a lone last byte being the high
byte of a word whose low byte is zero (R91). -/
def sum16 : List Byte → Nat
  | [] => 0
  | [a] => a.toNat * 256
  | a :: b :: rest => a.toNat * 256 + b.toNat + sum16 rest

/-- One pass of the fold loop (R96). -/
def foldPass (s : Word) : Word := (s &&& 0xFFFF#32) + (s >>> 16)

/-- The fold loop of R96 with at most `n` passes. -/
def foldLoop (n : Nat) (s : Word) : Word :=
  match n with
  | 0 => s
  | n + 1 => if s >>> 16 = 0#32 then s else foldLoop n (foldPass s)

/-- `fold(s)`: for a 32-bit `s` the loop runs at most twice (R96). -/
def fold (s : Word) : Word := foldLoop 2 s

/-- `compile(s) = (~fold(s)) & 0xFFFF` (R96). -/
def compile (s : Word) : Half := (~~~(fold s)).setWidth 16

/-- The sum of the 12-byte pseudo-header for a segment of `n` bytes (30_encoding.md R70; R98). -/
def pseudoSum (src dst : Word) (n : Nat) : Nat :=
  sum16 (bytes32 src) + sum16 (bytes32 dst) + 0x0006 + n

/-- The segment with its checksum field replaced. -/
def Segment.withChecksum (T : Segment) (c : Half) : Segment := { T with hdr.checksum := c }

/-- `tcpsum(src, dst, T)` (R98). The accumulator is 32 bits and private to the evaluation. -/
def tcpsum (src dst : Word) (T : Segment) : Half :=
  compile (BitVec.ofNat 32
    (pseudoSum src dst T.length + sum16 (encodeSegment (T.withChecksum 0#16))))

/-- CSUM_CLR (R95). -/
def execCsumClr (s : State) : Host.Outcome State Fault Refusal :=
  .next (issue (fun s => done 0#32 { s with chk.sum := 0x00000000#32 }) s)

/-- CSUM_ADD (R93). -/
def execCsumAdd (s : State) : Host.Outcome State Fault Refusal :=
  .next (issue (fun s =>
    done 0#32 { s with chk.sum := s.chk.sum + BitVec.ofNat 32 (sum16 (bufBytes s)) }) s)

/-- CSUM_ADDW #imm16 (R94). -/
def execCsumAddw (imm : Half) (s : State) : Host.Outcome State Fault Refusal :=
  .next (issue (fun s => done 0#32 { s with chk.sum := s.chk.sum + imm.setWidth 32 }) s)

/-- CSUM_FIN (R97). -/
def execCsumFin (s : State) : Host.Outcome State Fault Refusal :=
  .next (issue (fun s => done 0#32 { s with chk.out := compile s.chk.sum }) s)

/-- CSUM_SEG (R99). -/
def execCsumSeg (s : State) : Host.Outcome State Fault Refusal :=
  .next (issue (fun s =>
    if s.cfg.maxSeg < segLen s then raise .eTooLong 0#32 s
    else
      done 0#32 { s with seg.hdr.checksum := tcpsum s.laddr s.ctx.paddr (segOf s) }) s)

end Sys2Proof.Machine
end

