-- ==== Sys2Proof/Machine/Fsm.lean ====
section
/-! DEFINITION. The FSM unit (42_fsm.md): `build`, the six commands up to their first `LinkRx()`
point, and what a waiting command does at each link event. -/

namespace Sys2Proof.Machine

open Sys2Proof

/-- The segment `build(c, P)` sends, its checksum field still zero (R134). -/
def buildDraft (c : Half) (P : List Byte) (s : State) : Segment where
  hdr :=
    { src := s.ctx.lport, dst := s.ctx.pport, seqnum := s.ctx.seq, acknum := s.ctx.ack
      flags := mkflags 20 c, window := s.cfg.txWindow, checksum := 0x0000#16
      urgent := 0x0000#16 }
  opt := []
  pay := P

/-- The segment `build(c, P)` sends (R134). -/
def buildSegment (c : Half) (P : List Byte) (s : State) : Segment :=
  (buildDraft c P s).withChecksum (tcpsum s.laddr s.ctx.paddr (buildDraft c P s))

/-- `build(c, P)` (R134), from the context as it stands. -/
def build (c : Half) (P : List Byte) (s : State) : List Byte := encodeSegment (buildSegment c P s)

/-! ### The commands up to their first `LinkRx()` point -/

/-- An FSM command runs only in the STATE it needs (R132); E_STATE otherwise (R173). -/
def needState (c : ConnState) (run : State → State) (s : State) : State :=
  if s.ctx.state = c then run s else raise .eState 0#32 s

/-- `raise E_IO(e)` after `STATE <- Closed`: the exits of CONNECT and ACCEPT (R137, R140, R141). -/
def failClosed (c : Code) (e : Word) (s : State) : State := raise c e (setConn .closed s)

/-- CTX_LOAD (R139). -/
def execCtxLoad (s : State) : Host.Outcome State Fault Refusal :=
  .next (issue (needState .closed fun s => done 0#32 (setConn .established s)) s)

/-- The registers CONNECT writes before the SYN (R140). -/
def connectStart (s : State) : State :=
  setConn .synSent (setCounters (nextDraw s) 0x00000000#32 (takeDraw s))

/-- CONNECT up to its wait (R140). -/
def execConnect (s : State) : Host.Outcome State Fault Refusal :=
  .next (issue (needState .closed fun s =>
    transmit (build Kind.syn.flags [] (connectStart s)) (failClosed .eIo) (enterWait .connect)
      (connectStart s)) s)

/-- `PPORT <- p`. -/
def setPeerPort (p : Half) (s : State) : State := { s with ctx.pport := p }

/-- The registers ACCEPT writes before the SYN-ACK (R141). -/
def acceptStart (s : State) : State :=
  setConn .synRcvd
    (setCounters (nextDraw s) (s.seg.hdr.seqnum + 1#32)
      (setPeerPort s.seg.hdr.src (takeDraw s)))

/-- ACCEPT up to its wait (R141). -/
def execAccept (s : State) : Host.Outcome State Fault Refusal :=
  .next (issue (needState .closed fun s =>
    transmit (build Kind.synAck.flags [] (acceptStart s)) (failClosed .eIo) (enterWait .accept)
      (acceptStart s)) s)

/-- RECV up to its wait (R142). -/
def execRecv (s : State) : Host.Outcome State Fault Refusal :=
  .next (issue (needState .established (enterWait .recv)) s)

/-- `k <- S.PAYLEN` of SEND, kept across its wait (R143; log 9). -/
def sampleLen (s : State) : State := { s with hid.sendLen := s.seg.paylen }

/-- SEND up to its wait (R143). -/
def execSend (s : State) : Host.Outcome State Fault Refusal :=
  .next (issue (needState .established fun s =>
    transmit (build Kind.pshAck.flags (payBytes s) s) (raise .eIo)
      (fun t => enterWait .send (sampleLen t)) s) s)

/-- CLOSE (R144): the link's answer is ignored. -/
def execClose (s : State) : Host.Outcome State Fault Refusal :=
  .next (issue (needState .established fun s =>
    done 0#32 (setConn .closed (linkTx (build Kind.finAck.flags [] s) s))) s)

/-! ### What decides a waiting command: a matching segment is in S -/

/-- `SEQ <- S.ACKNUM` and `ACK <- S.SEQNUM + d` (R138). -/
def adoptCounters (d : Word) (s : State) : State :=
  setCounters s.seg.hdr.acknum (s.seg.hdr.seqnum + d) s

/-- CONNECT after `wait_match` (R140). -/
def connectDecide (s : State) : State :=
  if segCtrl s = Kind.synAck.flags then
    transmit (build Kind.ack.flags [] (adoptCounters 1#32 s)) (failClosed .eIo)
      (fun t => done 0#32 (setConn .established t)) (adoptCounters 1#32 s)
  else failClosed .eHandshake 0#32 s

/-- ACCEPT after `wait_match` (R141). -/
def acceptDecide (s : State) : State :=
  if segCtrl s = Kind.ack.flags then
    done 0#32 (setConn .established (adoptCounters 0#32 s))
  else failClosed .eHandshake 0#32 s

/-- RECV after `wait_match` (R142): any other kind is skipped and the wait goes on. -/
def recvDecide (s : State) : State :=
  if segCtrl s = Kind.pshAck.flags then
    transmit (build Kind.ack.flags [] (adoptCounters (s.seg.paylen.setWidth 32) s)) (raise .eIo)
      (fun t => done (t.seg.paylen.setWidth 32) t)
      (adoptCounters (s.seg.paylen.setWidth 32) s)
  else s

/-- SEND after `wait_match` (R143). -/
def sendDecide (s : State) : State :=
  if segCtrl s = Kind.ack.flags then
    done (s.hid.sendLen.setWidth 32) (adoptCounters 0#32 s)
  else raise .eBrokenPipe 0#32 s

/-- The command in progress decides on the matching segment in S. Only the four waiting commands
wait (10_state.md R31; log 15 for the others). -/
def decideMatch (s : State) : State :=
  match s.hid.cur with
  | .connect => connectDecide s
  | .accept => acceptDecide s
  | .recv => recvDecide s
  | .send => sendDecide s
  | .csumClr => s
  | .csumAdd => s
  | .csumAddw => s
  | .csumFin => s
  | .csumSeg => s
  | .decode => s
  | .encode => s
  | .ctxLoad => s
  | .close => s

/-- A waiting command ends with an error: CONNECT and ACCEPT put STATE back to Closed, RECV and SEND
leave it Established (R131, R137, R178, R179). -/
def failWait (c : Code) (e : Word) (s : State) : State :=
  match s.hid.cur with
  | .connect => failClosed c e s
  | .accept => failClosed c e s
  | .recv => raise c e s
  | .send => raise c e s
  | .csumClr => s
  | .csumAdd => s
  | .csumAddw => s
  | .csumFin => s
  | .csumSeg => s
  | .decode => s
  | .encode => s
  | .ctxLoad => s
  | .close => s

/-- The match test (R136). -/
def isMatching (s : State) : Bool :=
  decide (s.seg.hdr.dst = s.ctx.lport) && decide (s.seg.hdr.src = s.ctx.pport)

/-- One turn of `wait_match` (R135) on the datagram in BUF, its flags field being `f`: a failed
decode is dropped or, for a bad header length under policy `fault`, ends the command; a decoded
segment goes to S; a matching one decides the command, another is skipped. -/
def rxSegment (f : Half) (s : State) : State :=
  match s.hid.phase with
  | .idle => s
  | .rxWait =>
    match decodeAs f (bufBytes s) with
    | .error .eShort => s
    | .error _ =>
      match s.cfg.badHlen with
      | .drop => s
      | .fault => failWait .eMalformed 0#32 s
    | .ok T =>
      if isMatching (storeSegment T s) then decideMatch (storeSegment T s)
      else storeSegment T s

/-! ### The segment kinds (30_encoding.md R69; log 10)

The meaning of a segment kind is the turn of `wait_match` on a datagram whose flags field is of that
kind. Which of them a command looks for is in the four decisions above. -/

/-- SEG_SYN: looked for by no command of the block. -/
def execSegSyn (hl : BitVec 4) (rsv : BitVec 7) (s : State) : Host.Outcome State Fault Refusal :=
  .next (rxSegment (flagsField hl rsv .syn) s)

/-- SEG_SYN_ACK: looked for by CONNECT. -/
def execSegSynAck (hl : BitVec 4) (rsv : BitVec 7) (s : State) :
    Host.Outcome State Fault Refusal :=
  .next (rxSegment (flagsField hl rsv .synAck) s)

/-- SEG_ACK: looked for by ACCEPT and SEND. -/
def execSegAck (hl : BitVec 4) (rsv : BitVec 7) (s : State) : Host.Outcome State Fault Refusal :=
  .next (rxSegment (flagsField hl rsv .ack) s)

/-- SEG_PSH_ACK: looked for by RECV. -/
def execSegPshAck (hl : BitVec 4) (rsv : BitVec 7) (s : State) :
    Host.Outcome State Fault Refusal :=
  .next (rxSegment (flagsField hl rsv .pshAck) s)

/-- SEG_FIN_ACK: looked for by nothing. -/
def execSegFinAck (hl : BitVec 4) (rsv : BitVec 7) (s : State) :
    Host.Outcome State Fault Refusal :=
  .next (rxSegment (flagsField hl rsv .finAck) s)

end Sys2Proof.Machine
end

