-- ==== Sys2Proof/Machine/Dispatch.lean ====
section
/-! DEFINITION. One arm for each constructor of Instr: the meaning of each row of the opcode table. -/

namespace Sys2Proof.Machine

open Sys2Proof

def exec (i : Instr) (s : State) : Host.Outcome State Fault Refusal :=
  match i with
  -- checksum unit
  | .csumClr => Sys2Proof.Machine.execCsumClr s
  | .csumAdd => Sys2Proof.Machine.execCsumAdd s
  | .csumAddw imm => Sys2Proof.Machine.execCsumAddw imm s
  | .csumFin => Sys2Proof.Machine.execCsumFin s
  | .csumSeg => Sys2Proof.Machine.execCsumSeg s
  -- codec unit
  | .decode => Sys2Proof.Machine.execDecode s
  | .encode => Sys2Proof.Machine.execEncode s
  -- FSM unit
  | .ctxLoad => Sys2Proof.Machine.execCtxLoad s
  | .connect => Sys2Proof.Machine.execConnect s
  | .accept => Sys2Proof.Machine.execAccept s
  | .recv => Sys2Proof.Machine.execRecv s
  | .send => Sys2Proof.Machine.execSend s
  | .close => Sys2Proof.Machine.execClose s
  -- segment kinds at a LinkRx() point
  | .segSyn hl rsv => Sys2Proof.Machine.execSegSyn hl rsv s
  | .segSynAck hl rsv => Sys2Proof.Machine.execSegSynAck hl rsv s
  | .segAck hl rsv => Sys2Proof.Machine.execSegAck hl rsv s
  | .segPshAck hl rsv => Sys2Proof.Machine.execSegPshAck hl rsv s
  | .segFinAck hl rsv => Sys2Proof.Machine.execSegFinAck hl rsv s

end Sys2Proof.Machine
end

