-- ==== Sys2Proof/Machine/Operands.lean ====
section
/-! DEFINITION. The operand forms of the host's side: reading and writing a register by name, with
its width, its access rule and its limits (10_state.md R33 to R36), a byte of an array, and the
offsets of the register map (20_memory.md R48). -/

namespace Sys2Proof.Machine

open Sys2Proof

/-- The value a host reads, zero-extended to 32 bits (R34). CMD holds nothing (R26): reading it is
refused before this is asked. -/
def regValue (s : State) : Reg → Word
  | .cmd => 0#32
  | .status => statusWord s
  | .result => s.cc.result.value.setWidth 32
  | .ioerr => s.cc.ioerr
  | .count => s.cc.count
  | .laddr => s.laddr
  | .state => s.ctx.state.value.setWidth 32
  | .paddr => s.ctx.paddr
  | .pport => s.ctx.pport.setWidth 32
  | .lport => s.ctx.lport.setWidth 32
  | .seq => s.ctx.seq
  | .ack => s.ctx.ack
  | .sum => s.chk.sum
  | .csumout => s.chk.out.setWidth 32
  | .buflen => s.buf.len.setWidth 32
  | .sSrc => s.seg.hdr.src.setWidth 32
  | .sDst => s.seg.hdr.dst.setWidth 32
  | .sSeqnum => s.seg.hdr.seqnum
  | .sAcknum => s.seg.hdr.acknum
  | .sFlags => s.seg.hdr.flags.setWidth 32
  | .sWindow => s.seg.hdr.window.setWidth 32
  | .sChecksum => s.seg.hdr.checksum.setWidth 32
  | .sUrgent => s.seg.hdr.urgent.setWidth 32
  | .sOptlen => s.seg.optlen.setWidth 32
  | .sPaylen => s.seg.paylen.setWidth 32

/-- Who may write a register (the table of R35). -/
inductive WriteRule where
  /-- A write is always refused. -/
  | never
  /-- Written when idle. -/
  | whenIdle
  /-- Written when idle and STATE = Closed. -/
  | whenClosed
  deriving DecidableEq, Repr

/-- The host-write column of R35. STATUS and CMD have writes of their own kind. -/
def writeRule : Reg → WriteRule
  | .cmd => .whenIdle
  | .status => .whenIdle
  | .result => .never
  | .ioerr => .never
  | .count => .never
  | .laddr => .whenClosed
  | .state => .never
  | .paddr => .whenClosed
  | .pport => .whenClosed
  | .lport => .whenClosed
  | .seq => .whenClosed
  | .ack => .whenClosed
  | .sum => .whenIdle
  | .csumout => .never
  | .buflen => .whenIdle
  | .sSrc => .whenIdle
  | .sDst => .whenIdle
  | .sSeqnum => .whenIdle
  | .sAcknum => .whenIdle
  | .sFlags => .whenIdle
  | .sWindow => .whenIdle
  | .sChecksum => .whenIdle
  | .sUrgent => .whenIdle
  | .sOptlen => .whenIdle
  | .sPaylen => .whenIdle

/-- The width of a register in bits (the table of R48). -/
def regWidth : Reg → Nat
  | .result => 8
  | .state => 2
  | .pport => 16
  | .lport => 16
  | .csumout => 16
  | .buflen => 16
  | .sSrc => 16
  | .sDst => 16
  | .sFlags => 16
  | .sWindow => 16
  | .sChecksum => 16
  | .sUrgent => 16
  | .sOptlen => 6
  | .sPaylen => 16
  | _ => 32

/-- The largest value a write may give a register: its width (R34), and the limits of S.OPTLEN,
S.PAYLEN and BUFLEN (R20, R21, R23). -/
def regLimit (cfg : Config) : Reg → Nat
  | .sOptlen => maxOpt
  | .sPaylen => cfg.maxPay
  | .buflen => cfg.maxSeg
  | r => 2 ^ regWidth r - 1

/-- The store of an accepted write: the low bits of the word (R34). Registers no host write reaches
are left alone. -/
def setReg (s : State) (w : Word) : Reg → State
  | .laddr => { s with laddr := w }
  | .paddr => { s with ctx.paddr := w }
  | .pport => { s with ctx.pport := w.setWidth 16 }
  | .lport => { s with ctx.lport := w.setWidth 16 }
  | .seq => { s with ctx.seq := w }
  | .ack => { s with ctx.ack := w }
  | .sum => { s with chk.sum := w }
  | .buflen => { s with buf.len := w.setWidth 16 }
  | .sSrc => { s with seg.hdr.src := w.setWidth 16 }
  | .sDst => { s with seg.hdr.dst := w.setWidth 16 }
  | .sSeqnum => { s with seg.hdr.seqnum := w }
  | .sAcknum => { s with seg.hdr.acknum := w }
  | .sFlags => { s with seg.hdr.flags := w.setWidth 16 }
  | .sWindow => { s with seg.hdr.window := w.setWidth 16 }
  | .sChecksum => { s with seg.hdr.checksum := w.setWidth 16 }
  | .sUrgent => { s with seg.hdr.urgent := w.setWidth 16 }
  | .sOptlen => { s with seg.optlen := w.setWidth 6 }
  | .sPaylen => { s with seg.paylen := w.setWidth 16 }
  | .cmd => s
  | .status => s
  | .result => s
  | .ioerr => s
  | .count => s
  | .state => s
  | .csumout => s

/-- A register write is accepted: R35's condition holds and the value is within the limits. -/
def writeAllowed (s : State) (r : Reg) (w : Word) : Bool :=
  !s.cc.busy && decide (w.toNat ≤ regLimit s.cfg r) &&
    match writeRule r with
    | .never => false
    | .whenIdle => true
    | .whenClosed => decide (s.ctx.state = .closed)

/-- `HostRead(reg)` (20_memory.md R47): STATUS at any time, CMD never, the rest when idle (R35). -/
def hostRead (r : Reg) (s : State) : State :=
  match r with
  | .status => answer (.word (regValue s .status)) s
  | .cmd => refuse s
  | r => if s.cc.busy then refuse s else answer (.word (regValue s r)) s

/-- `HostWrite(reg, word)`, for every register but CMD. A write of STATUS clears WREF where bit 1 is
1, at any time (R27, R35). A write of CMD issues a command, which is the step's (Fetch.lean). -/
def hostWrite (r : Reg) (w : Word) (s : State) : State :=
  match r with
  | .status =>
    answer .ok (if w.getLsbD 1 then { s with cc.wref := false } else s)
  | r => if writeAllowed s r w then answer .ok (setReg s w r) else refuse s

/-- `HostReadByte(array, i)`. -/
def hostReadByte (a : Arr) (i : Nat) (s : State) : State :=
  if s.cc.busy then refuse s
  else if i < s.cfg.capacity a then answer (.byte (readArr s a i)) s
  else refuse s

/-- `HostWriteByte(array, i, byte)`. -/
def hostWriteByte (a : Arr) (i : Nat) (b : Byte) (s : State) : State :=
  if s.cc.busy then refuse s
  else if i < s.cfg.capacity a then answer .ok (writeArr s a i b)
  else refuse s

/-- The four host access forms (R47), but for a write of CMD. -/
def hostAccess (op : HostOp) (s : State) : State :=
  match op with
  | .read r => hostRead r s
  | .write r w => hostWrite r w s
  | .readByte a i => hostReadByte a i s
  | .writeByte a i b => hostWriteByte a i b s

/-! ### The register map (20_memory.md R48) -/

/-- The offset of a register. -/
def regOffset : Reg → Nat
  | .cmd => 0x000
  | .status => 0x004
  | .result => 0x008
  | .ioerr => 0x00C
  | .count => 0x010
  | .laddr => 0x014
  | .state => 0x018
  | .paddr => 0x01C
  | .pport => 0x020
  | .lport => 0x024
  | .seq => 0x028
  | .ack => 0x02C
  | .sum => 0x030
  | .csumout => 0x034
  | .buflen => 0x038
  | .sSrc => 0x040
  | .sDst => 0x044
  | .sSeqnum => 0x048
  | .sAcknum => 0x04C
  | .sFlags => 0x050
  | .sWindow => 0x054
  | .sChecksum => 0x058
  | .sUrgent => 0x05C
  | .sOptlen => 0x060
  | .sPaylen => 0x064

/-- Every register, in the order of the map. -/
def Reg.all : List Reg :=
  [.cmd, .status, .result, .ioerr, .count, .laddr, .state, .paddr, .pport, .lport, .seq, .ack,
   .sum, .csumout, .buflen, .sSrc, .sDst, .sSeqnum, .sAcknum, .sFlags, .sWindow, .sChecksum,
   .sUrgent, .sOptlen, .sPaylen]

/-- The register at an offset. -/
def regAt (off : Nat) : Option Reg := Reg.all.find? fun r => regOffset r == off

/-- The offset of index 0 of an array. -/
def arrBase : Arr → Nat
  | .opt => 0x80
  | .buf => 0x10000
  | .pay => 0x20000

/-- The array byte at an offset. -/
def byteAt (cfg : Config) (off : Nat) : Option (Arr × Nat) :=
  ([Arr.opt, .buf, .pay].find? fun a =>
    decide (arrBase a ≤ off) && decide (off < arrBase a + cfg.capacity a)).map
      fun a => (a, off - arrBase a)

/-- The host access a bus access is, if the map defines it (R48; log 14). -/
def busToHost (cfg : Config) : BusOp → Option HostOp
  | .readWord off => (regAt off).map .read
  | .writeWord off w => (regAt off).map fun r => .write r w
  | .readByte off => (byteAt cfg off).map fun p => .readByte p.1 p.2
  | .writeByte off b => (byteAt cfg off).map fun p => .writeByte p.1 p.2 b

/-- A refused read returns all ones on the bus (R48). -/
def busAnswer (op : BusOp) (s : State) : State :=
  match s.env.reply, op with
  | .refused, .readWord _ => answer (.word 0xFFFFFFFF#32) s
  | .refused, .readByte _ => answer (.byte 0xFF#8) s
  | _, _ => s

end Sys2Proof.Machine
end

