-- ==== Sys2Proof/Machine/Fetch.lean ====
section
/-! DEFINITION. What the next step is to do: the block takes the first pending input, and either it
is a command word or an offered segment whose bits decode, and the instruction is to be run, or the
input is dealt with here. -/

namespace Sys2Proof.Machine

open Sys2Proof

/-- What a step does. -/
inductive Todo where
  /-- No input is pending: the block has no step of its own (20_memory.md R51; log 5). -/
  | nothing
  /-- The input was dealt with; this is the state it left. -/
  | settled (s : State)
  /-- The input decodes to an instruction, to be run in this state. -/
  | run (i : Instr) (s : State)
  deriving DecidableEq, Repr

/-- `HostWrite(CMD, w)`: refused while busy (10_state.md R26); an illegal word completes at once with
E_ILLEGAL_CMD (60_exceptions.md R172); any other is an instruction. -/
def fetchCommand (w : Word) (s : State) : Todo :=
  if s.cc.busy then .settled (refuse s)
  else
    match decodeCommand w with
    | .error _ => .settled (raise .eIllegalCmd 0#32 (answer .ok s))
    | .ok i => .run i (answer .ok s)

/-- A host access: a write of CMD is a command, every other access is dealt with. -/
def fetchHost (op : HostOp) (s : State) : Todo :=
  match op with
  | .write .cmd w => fetchCommand w s
  | op => .settled (hostAccess op s)

/-- A bus access (20_memory.md R48): the host access its offset stands for; an offset the map does
not define is refused. -/
def fetchBus (op : BusOp) (s : State) : Todo :=
  match busToHost s.cfg op with
  | none => .settled (busAnswer op (refuse s))
  | some hop =>
    match fetchHost hop s with
    | .nothing => .nothing
    | .settled t => .settled (busAnswer op t)
    | .run i t => .run i t

/-- A datagram taken by a waiting command (42_fsm.md R135): it goes to BUF, and its flags field, if
it is long enough to be a header, says which segment kind it is. A shorter datagram and a flags
field of no kind are no row of the opcode table; the same turn of `wait_match` is made on them. -/
def fetchDatagram (B : List Byte) (s : State) : Todo :=
  if (B.take s.cfg.maxSeg).length < 20 then
    .settled (rxSegment (be16 (B.take s.cfg.maxSeg) 12) (loadDatagram B s))
  else
    match decodeFlags s.cfg.flagMask (be16 (B.take s.cfg.maxSeg) 12) with
    | .error _ => .settled (rxSegment (be16 (B.take s.cfg.maxSeg) 12) (loadDatagram B s))
    | .ok i => .run i (loadDatagram B s)

/-- What the link offers. While no command waits the block takes nothing (20_memory.md R51; log 6).
A waiting command takes the event: an error ends it with E_IO (42_fsm.md R137). -/
def fetchLink (ev : LinkEvent) (s : State) : Todo :=
  match s.hid.phase with
  | .idle => .settled s
  | .rxWait =>
    match ev with
    | .err e => .settled (failWait .eIo e (takeEvent ev s))
    | .dgram B => fetchDatagram B (takeEvent ev s)

/-- Reset (70_reset_and_hazards.md R200 to R202): every register to its reset value, the contents of
the three arrays unspecified again, a command in progress abandoned, nothing given to the link. The
parameters and the outside agents are not reset (log 18). -/
def resetInput (s : State) : State :=
  { State.reset with
    cfg := s.cfg
    epoch := s.epoch + 1
    env := { s.env with reply := .none } }

/-- The input has been taken from the pending ones. -/
def popInput (s : State) : State := { s with env.inbox := s.env.inbox.tail }

/-- What the next step is to do. -/
def fetch (s : State) : Todo :=
  match s.env.inbox with
  | [] => .nothing
  | .host op :: _ => fetchHost op (popInput s)
  | .bus op :: _ => fetchBus op (popInput s)
  | .link ev :: _ => fetchLink ev (popInput s)
  | .reset :: _ => .settled (resetInput (popInput s))

/-! ### Placing an instruction (log 12) -/

/-- An input put before the pending ones. -/
def pushInput (i : Input) (s : State) : State := { s with env.inbox := i :: s.env.inbox }

/-- The block made ready to take a command: BUSY = 0, PHASE = IDLE, as they are after reset. -/
def readyForCommand (s : State) : State := { s with cc.busy := false, hid.phase := .idle }

/-- The block made to wait at a `LinkRx()` point: as it is if it waits already, else in a RECV. -/
def readyForSegment (s : State) : State :=
  match s.hid.phase with
  | .rxWait => s
  | .idle => enterWait .recv (setConn .established s)

/-- A datagram of a bare header from the peer, with the flags field `f` (30_encoding.md R60). -/
def bareSegment (f : Half) (s : State) : List Byte :=
  headerBytes
    { src := s.ctx.pport, dst := s.ctx.lport, seqnum := 0#32, acknum := 0#32, flags := f
      window := 0#16, checksum := 0#16, urgent := 0#16 }

/-- A command word is written to CMD next. -/
def placeCommand (w : Word) (s : State) : State :=
  pushInput (.host (.write .cmd w)) (readyForCommand s)

/-- A segment with the flags field `f` is offered next. -/
def placeSegment (f : Half) (s : State) : State :=
  pushInput (.link (.dgram (bareSegment f s))) (readyForSegment s)

end Sys2Proof.Machine
end

