-- ==== Sys2Proof/Machine/Step.lean ====
section
/-! DEFINITION. One step of the machine: the next pending input is taken; if it is an instruction,
`exec` runs it. With no pending input the block has no step of its own, and the step leaves the state
as it is (20_memory.md R51: "stuck, not faulted and not final"; log 5). -/

namespace Sys2Proof.Machine

open Sys2Proof

/-- One step. -/
def step (s : State) : Host.Outcome State Fault Refusal :=
  match fetch s with
  | .nothing => .next s
  | .settled t => .next t
  | .run i t => exec i t

/-- The state in which the next step takes the given table word: a command word is written to CMD, a
16-bit segment kind is offered by the link to a waiting command (log 12). -/
def State.withFetchWord (s : State) (nbits w : Nat) : State :=
  if 16 < nbits then placeCommand (BitVec.ofNat 32 w) s else placeSegment (BitVec.ofNat 16 w) s

end Sys2Proof.Machine
end

