-- ==== Sys2Proof/Machine/Listing.lean ====
section
/-! DEFINITION. The listing lines of 30_encoding.md R76 as host accesses, and the two
pseudo-commands of R77. -/

namespace Sys2Proof.Machine

open Sys2Proof

/-- One line of a listing (R76). -/
inductive Line where
  | wr (r : Reg) (v : Word)
  | rd (r : Reg)
  | ldb (a : Arr) (B : List Byte)
  /-- A format C0 command. -/
  | command (c : Cmd)
  | csumAddw (imm : Half)
  /-- STATUS reads until BUSY = 0; how many that takes is the link's. -/
  | wait (polls : Nat)
  deriving DecidableEq, Repr

/-- The length register of an array. -/
def lengthReg : Arr → Reg
  | .buf => .buflen
  | .opt => .sOptlen
  | .pay => .sPaylen

/-- One byte write for each byte, from an index on. -/
def byteWrites (a : Arr) (i : Nat) (B : List Byte) : List HostOp :=
  match B with
  | [] => []
  | b :: rest => .writeByte a i b :: byteWrites a (i + 1) rest

/-- The host accesses a line stands for (R76). -/
def Line.ops : Line → List HostOp
  | .wr r v => [.write r v]
  | .rd r => [.read r]
  | .ldb a B => byteWrites a 0 B ++ [.write (lengthReg a) (BitVec.ofNat 32 B.length)]
  | .command c => [.write .cmd (encodeC0 c)]
  | .csumAddw imm => [.write .cmd (encodeCI .csumAddw imm)]
  | .wait polls => List.replicate polls (.read .status)

/-- CSUM_TCP (R77): the checksum of the `n`-byte segment in BUF between addresses `A` and `B`. -/
def csumTcp (A B : Word) (n : Half) : List Line :=
  [.command .csumClr,
   .csumAddw (A.extractLsb' 16 16), .csumAddw (A.extractLsb' 0 16),
   .csumAddw (B.extractLsb' 16 16), .csumAddw (B.extractLsb' 0 16),
   .csumAddw 0x0006#16,
   .csumAddw n,
   .command .csumAdd,
   .command .csumFin]

/-- ECHO (R77): receive one payload and send it back. -/
def echo (recvPolls sendPolls : Nat) : List Line :=
  [.command .recv, .wait recvPolls, .command .send, .wait sendPolls]

/-- A listing as pending inputs. -/
def inputsOf (lines : List Line) : List Input := (lines.flatMap Line.ops).map .host

end Sys2Proof.Machine
end

