-- ==== Sys2Proof/Safety.lean ====
section
/-! DEFINITION. The terms claims are stated in: when the block is idle, when it waits and for what,
what an offered segment is, which states a run can be in, and which moves of STATE there are. -/

namespace Sys2Proof.Machine

open Sys2Proof

/-- The block is idle (10_state.md R33, R31). -/
abbrev Idle (s : State) : Prop := s.cc.busy = false ∧ s.hid.phase = .idle

/-- The command `c` waits at a `LinkRx()` point (10_state.md R31). -/
abbrev Waiting (c : Cmd) (s : State) : Prop :=
  s.cc.busy = true ∧ s.hid.phase = .rxWait ∧ s.hid.cur = c

/-- The STATE a waiting command holds the block in (42_fsm.md R131). -/
def waitState : Cmd → Option ConnState
  | .connect => some .synSent
  | .accept => some .synRcvd
  | .recv => some .established
  | .send => some .established
  | .csumClr => none
  | .csumAdd => none
  | .csumAddw => none
  | .csumFin => none
  | .csumSeg => none
  | .decode => none
  | .encode => none
  | .ctxLoad => none
  | .close => none

/-- The datagram in BUF decodes to the segment `T`, and its flags field is `f`. -/
abbrev Offered (s : State) (f : Half) (T : Segment) : Prop :=
  decodeSegment (bufBytes s) = .ok T ∧ T.hdr.flags = f

/-- `T` is a matching segment (42_fsm.md R136). -/
abbrev Matches (s : State) (T : Segment) : Prop :=
  T.hdr.dst = s.ctx.lport ∧ T.hdr.src = s.ctx.pport

/-- The state in which a waiting command looks at a datagram: the offer is taken from the pending
inputs, recorded, and in BUF (42_fsm.md R135). -/
def taken (B : List Byte) (s : State) : State :=
  loadDatagram B (takeEvent (.dgram B) (popInput s))

/-- What every state of a run from reset satisfies. -/
structure BlockInv (s : State) : Prop where
  /-- The parameters meet the constraints of 00_scope.md R5. -/
  cfgLegal : s.cfg.Legal
  /-- The length registers hold legal values (10_state.md R20, R21, R23). -/
  optlenLegal : s.seg.optlen.toNat ≤ maxOpt
  paylenLegal : s.seg.paylen.toNat ≤ s.cfg.maxPay
  buflenLegal : s.buf.len.toNat ≤ s.cfg.maxSeg
  /-- The arrays keep their canonical form and their capacity. -/
  arraysWf : ∀ a, Memory.wf (arrayOf s a) = true
  arraysWithin : ∀ a, Memory.within (arrayOf s a) (s.cfg.capacity a) = true
  /-- PHASE is IDLE and STATE is Closed or Established when idle (10_state.md R12, R31). -/
  idleState : s.cc.busy = false →
    s.hid.phase = .idle ∧ (s.ctx.state = .closed ∨ s.ctx.state = .established)
  /-- A busy block waits, in the STATE its command holds (10_state.md R31; 42_fsm.md R131). -/
  waitingState : s.cc.busy = true →
    s.hid.phase = .rxWait ∧ waitState s.hid.cur = some s.ctx.state

/-- What a move of STATE in one step may be (42_fsm.md R131), and what it must come from. -/
inductive StateMove (s t : State) : Prop where
  | ctxLoad (s' : State) (h : fetch s = .run .ctxLoad s')
      (hs : s.ctx.state = .closed) (ht : t.ctx.state = .established)
  | connect (s' : State) (h : fetch s = .run .connect s')
      (hs : s.ctx.state = .closed) (ht : t.ctx.state = .synSent)
  | accept (s' : State) (h : fetch s = .run .accept s')
      (hs : s.ctx.state = .closed) (ht : t.ctx.state = .synRcvd)
  | close (s' : State) (h : fetch s = .run .close s')
      (hs : s.ctx.state = .established) (ht : t.ctx.state = .closed)
  | connected (hl : BitVec 4) (rsv : BitVec 7) (s' : State)
      (h : fetch s = .run (.segSynAck hl rsv) s') (hw : Waiting .connect s)
      (hs : s.ctx.state = .synSent) (ht : t.ctx.state = .established)
  | accepted (hl : BitVec 4) (rsv : BitVec 7) (s' : State)
      (h : fetch s = .run (.segAck hl rsv) s') (hw : Waiting .accept s)
      (hs : s.ctx.state = .synRcvd) (ht : t.ctx.state = .established)
  | failed (ev : LinkEvent) (rest : List Input) (h : s.env.inbox = .link ev :: rest)
      (hs : Waiting .connect s ∧ s.ctx.state = .synSent ∨
        Waiting .accept s ∧ s.ctx.state = .synRcvd)
      (hc : t.cc.result = .eHandshake ∨ t.cc.result = .eIo ∨ t.cc.result = .eMalformed)
      (ht : t.ctx.state = .closed)
  | reset (rest : List Input) (h : s.env.inbox = .reset :: rest) (ht : t.ctx.state = .closed)

end Sys2Proof.Machine
end

