-- ==== Sys2Proof/Certificates/Slice0/Obligations.lean ====
section
/-! DEFINITION. The statements for the provers. Each is about every state, or about every state a
named condition holds in; a record update `{ s with … }` names every field that changes, so it is the
instruction's frame as well as its result. -/

open Sys2Proof Sys2Proof.Machine

/-! ### Encoding (30_encoding.md) -/

/-- Some words of the spec's own list (95_test_vectors.md V-E4), and the five table values of the
segment kinds, decode to what they stand for. -/
def Obligations.CommandWordsDecode : Prop :=
  decodeCommand 0x00000001#32 = .ok .csumClr ∧
  decodeCommand 0x00000603#32 = .ok (.csumAddw 0x0006#16) ∧
  decodeCommand 0x00FFFF03#32 = .ok (.csumAddw 0xFFFF#16) ∧
  decodeCommand 0x00000011#32 = .ok .encode ∧
  decodeCommand 0x00000025#32 = .ok .close ∧
  decodeCommand 0x00000000#32 = .error (.unassignedOpcode 0x00#8) ∧
  decodeCommand 0x00000121#32 = .error (.reservedBits 0x00000121#32) ∧
  decodeCommand 0x01000603#32 = .error (.reservedBits 0x01000603#32) ∧
  decodeTableWord 16 0x5012 = some (.segSynAck 5#4 0#7) ∧
  decodeTableWord 16 0xF010 = some (.segAck 15#4 0#7) ∧
  decodeTableWord 16 0x5052 = none

/-- Decoding the bits of an instruction gives the instruction back, with every operand at every value
its field admits, under every legal flag mask. -/
def Obligations.DecodeEncodeAgree : Prop :=
  ∀ (mask : Half) (i : Instr), mask &&& 0xF000#16 = 0#16 → mask &&& 0x001F#16 = 0x001F#16 →
    i.wf mask = true → decodeEncoded mask (encode i) = .ok i

/-- The other direction: bits that decode are the bits of the instruction they decode to, so no two
words of a format stand for one instruction. -/
def Obligations.EncodeDecodeAgree : Prop :=
  (∀ (w : Word) (i : Instr), decodeCommand w = .ok i → encode i = .command w) ∧
  ∀ (mask f : Half) (i : Instr), mask &&& 0xF000#16 = 0#16 →
    mask &&& 0x001F#16 = 0x001F#16 → decodeFlags mask f = .ok i →
    encode i = .flags f ∧ i.wf mask = true

/-- R172: which words written to CMD are illegal, and that such a word changes RESULT and nothing
else. (`env.inbox` and `env.reply` are the model's record of the access itself, log 2 and 13.) -/
def Obligations.IllegalWordChangesResultOnly : Prop :=
  Code.value .eIllegalCmd = 0x01#8 ∧
  ∀ (s : State) (w : Word) (rest : List Input), Idle s →
    s.env.inbox = .host (.write .cmd w) :: rest →
    ((w.extractLsb' 0 8 ∉ [0x01#8, 0x02#8, 0x03#8, 0x04#8, 0x05#8, 0x10#8, 0x11#8, 0x20#8, 0x21#8,
        0x22#8, 0x23#8, 0x24#8, 0x25#8] ∨
      (w.extractLsb' 0 8 ≠ 0x03#8 ∧ w >>> 8 ≠ 0#32) ∨
      (w.extractLsb' 0 8 = 0x03#8 ∧ w >>> 24 ≠ 0#32)) →
        step s = .next { s with
          cc.result := .eIllegalCmd, env.inbox := rest, env.reply := .ok }) ∧
    (w.extractLsb' 0 8 ∈ [0x01#8, 0x02#8, 0x04#8, 0x05#8, 0x10#8, 0x11#8, 0x20#8, 0x21#8,
        0x22#8, 0x23#8, 0x24#8, 0x25#8] → w >>> 8 = 0#32 → ∃ i, decodeCommand w = .ok i) ∧
    (w.extractLsb' 0 8 = 0x03#8 → w >>> 24 = 0#32 → ∃ i, decodeCommand w = .ok i)

/-- R65 and R69: the flags field of a datagram is of a kind exactly when its bits under the mask are
the kind's value, and of no kind exactly when they are none of the five. -/
def Obligations.SegmentKindIsThePattern : Prop :=
  Kind.flags .syn = 0x0002#16 ∧ Kind.flags .synAck = 0x0012#16 ∧ Kind.flags .ack = 0x0010#16 ∧
  Kind.flags .pshAck = 0x0018#16 ∧ Kind.flags .finAck = 0x0011#16 ∧
  ∀ mask f : Half,
    (∀ k, decodeFlags mask f = .ok (Kind.toInstr (f.extractLsb' 12 4) (f.extractLsb' 5 7) k) ↔
      f &&& mask = Kind.flags k) ∧
    ((∃ e, decodeFlags mask f = .error e) ↔ ∀ k, f &&& mask ≠ Kind.flags k)

/-- R64 and R67, whole: the header length is four times the top nibble, `mkflags` is its inverse on
multiples of 4, and ENCODE's bytes 12 and 13 are the flags field as it stands. -/
def Obligations.HeaderLengthArithmetic : Prop :=
  (∀ f : Half, hlen f = ((f &&& 0xF000#16) >>> 10).toNat ∧
    hlen f = ((f >>> 12) &&& 0x000F#16).toNat * 4) ∧
  (∀ h : Nat, ∀ c : Half,
    mkflags h c = ((BitVec.ofNat 16 h <<< 10) &&& 0xF000#16) ||| (c &&& 0x0FFF#16)) ∧
  (∀ h : Nat, ∀ c : Half, h ≤ 60 → h % 4 = 0 →
    hlen (mkflags h c) = h ∧ mkflags h c &&& 0x0FFF#16 = c &&& 0x0FFF#16) ∧
  (∀ c : Half, c &&& 0xF000#16 = 0#16 → mkflags 20 c = 0x5000#16 ||| c) ∧
  ∀ T : Segment, ((encodeSegment T).drop 12).take 2 = bytes16 T.hdr.flags

/-! ### The step -/

/-- A step runs the instruction its input decodes to: a command word written to CMD by name or at
offset 0 of the register map, or the flags field of a datagram the link offers a waiting command.
What surrounds `exec` in a step is the model's record of the outside agents (log 2, 13); that a
segment kind is run on the datagram in BUF is log 10. -/
def Obligations.StepRunsTheDecodedInstruction : Prop :=
  (∀ (s : State) (w : Word) (i : Instr) (rest : List Input), s.cc.busy = false →
    s.env.inbox = .host (.write .cmd w) :: rest → decodeCommand w = .ok i →
    step s = exec i { s with env.inbox := rest, env.reply := .ok }) ∧
  (∀ (s : State) (w : Word) (i : Instr) (rest : List Input), s.cc.busy = false →
    s.env.inbox = .bus (.writeWord 0 w) :: rest → decodeCommand w = .ok i →
    step s = exec i { s with env.inbox := rest, env.reply := .ok }) ∧
  (∀ (s : State) (B : List Byte) (i : Instr) (rest : List Input), s.hid.phase = .rxWait →
    s.env.inbox = .link (.dgram B) :: rest → 20 ≤ (B.take s.cfg.maxSeg).length →
    decodeFlags s.cfg.flagMask (be16 (B.take s.cfg.maxSeg) 12) = .ok i →
    step s = exec i { s with
      env.inbox := rest
      env.trace := s.env.trace ++ [.rx (.dgram B)]
      buf.bytes := Memory.writeBytes s.buf.bytes 0 (B.take s.cfg.maxSeg)
      buf.len := BitVec.ofNat 16 (B.take s.cfg.maxSeg).length })

/-- R184: every command word, every register value and every datagram has a stated outcome (c). No
step faults and none is refused (log 21), and a step with no input pending, a stuck wait (b) among
them, leaves the state as it is (log 5). -/
def Obligations.EveryStepAnswers : Prop :=
  (∀ s : State, ∃ t, step s = .next t) ∧ ∀ s : State, s.env.inbox = [] → step s = .next s

/-- R51 and R208: nothing but a link event or reset ends or moves a wait; until one comes, a step
leaves everything as it is but for WREF, the answer to the host and the input it took. `env.inbox`
and `env.reply` are the model's (log 2, 13), and so is a step with no input pending (log 5). -/
def Obligations.WaitEndsOnlyByLinkOrReset : Prop :=
  ∀ s t : State, s.cc.busy = true → s.hid.phase = .rxWait →
    (∀ ev, s.env.inbox.head? ≠ some (.link ev)) → s.env.inbox.head? ≠ some .reset →
    step s = .next t →
    t = { s with
      cc.wref := t.cc.wref, env.inbox := s.env.inbox.tail, env.reply := t.env.reply }

/-- R36: while BUSY = 1 every access but a STATUS access is refused, a CMD write among them; a
refused access sets WREF and changes nothing else. `env.inbox` and `env.reply` are the model's
record of the access (log 2, 13). -/
def Obligations.BusyBlockRefusesTheHost : Prop :=
  ∀ (s : State) (op : HostOp) (rest : List Input), s.cc.busy = true →
    s.env.inbox = .host op :: rest → op ≠ .read .status → (∀ w, op ≠ .write .status w) →
    step s = .next { s with
      cc.wref := true, env.inbox := rest, env.reply := .refused }

/-! ### The host interface (10_state.md R33 to R36; 20_memory.md R46 to R48) -/

/-- A register read answers the register's value and has no side effect; a read of CMD, and any read
but STATUS while busy, is refused. The value is the register's, zero-extended to 32 bits (R34), with
the numbers of STATE (R12) and of RESULT (R28; 60_exceptions.md R170). `env.inbox` and `env.reply` are
the model's record of the access (log 2, 13). -/
def Obligations.HostReadHasNoSideEffect : Prop :=
  (∀ (s : State) (r : Reg) (rest : List Input), s.env.inbox = .host (.read r) :: rest →
    (r = .cmd ∨ (s.cc.busy = true ∧ r ≠ .status) →
      step s = .next { s with
        cc.wref := true, env.inbox := rest, env.reply := .refused }) ∧
    (r ≠ .cmd → (s.cc.busy = false ∨ r = .status) →
      step s = .next { s with env.inbox := rest, env.reply := .word (regValue s r) })) ∧
  (∀ s : State,
    regValue s .status =
      (if s.cc.wref then 2#32 else 0#32) + (if s.cc.busy then 1#32 else 0#32) ∧
    regValue s .ioerr = s.cc.ioerr ∧ regValue s .count = s.cc.count ∧
    regValue s .laddr = s.laddr ∧ regValue s .paddr = s.ctx.paddr ∧
    regValue s .seq = s.ctx.seq ∧ regValue s .ack = s.ctx.ack ∧ regValue s .sum = s.chk.sum ∧
    regValue s .sSeqnum = s.seg.hdr.seqnum ∧ regValue s .sAcknum = s.seg.hdr.acknum ∧
    (regValue s .pport).toNat = s.ctx.pport.toNat ∧
    (regValue s .lport).toNat = s.ctx.lport.toNat ∧
    (regValue s .csumout).toNat = s.chk.out.toNat ∧
    (regValue s .buflen).toNat = s.buf.len.toNat ∧
    (regValue s .sSrc).toNat = s.seg.hdr.src.toNat ∧
    (regValue s .sDst).toNat = s.seg.hdr.dst.toNat ∧
    (regValue s .sFlags).toNat = s.seg.hdr.flags.toNat ∧
    (regValue s .sWindow).toNat = s.seg.hdr.window.toNat ∧
    (regValue s .sChecksum).toNat = s.seg.hdr.checksum.toNat ∧
    (regValue s .sUrgent).toNat = s.seg.hdr.urgent.toNat ∧
    (regValue s .sOptlen).toNat = s.seg.optlen.toNat ∧
    (regValue s .sPaylen).toNat = s.seg.paylen.toNat) ∧
  (∀ s : State, (s.ctx.state, regValue s .state) ∈
    [(ConnState.closed, 0#32), (.synSent, 1#32), (.synRcvd, 2#32), (.established, 3#32)]) ∧
  ∀ s : State, (s.cc.result, regValue s .result) ∈
    [(Code.ok, 0x00#32), (.eIllegalCmd, 0x01#32), (.eState, 0x02#32), (.eShort, 0x03#32),
     (.eHlenLow, 0x04#32), (.eHlenHigh, 0x05#32), (.eTooLong, 0x06#32), (.eHandshake, 0x07#32),
     (.eBrokenPipe, 0x08#32), (.eIo, 0x09#32), (.eMalformed, 0x0A#32)]

/-- R34, R35, R36: when a register write is accepted, and then that register reads as the word
written, every other register and every array byte reads as before; a write that is not accepted
sets WREF and changes nothing else. `env.inbox` and `env.reply` are the model's record of the access
(log 2, 13). -/
def Obligations.HostWriteReadsBack : Prop :=
  ∀ (s : State) (r : Reg) (w : Word) (rest : List Input), s.cfg.Legal →
    s.env.inbox = .host (.write r w) :: rest → r ≠ .cmd → r ≠ .status →
    let accepted := s.cc.busy = false ∧ r ∉ [Reg.result, .ioerr, .count, .state, .csumout] ∧
      (r ∈ [Reg.laddr, .paddr, .pport, .lport, .seq, .ack] → s.ctx.state = .closed) ∧
      w.toNat < 2 ^ regWidth r ∧ (r = .sOptlen → w.toNat ≤ 40) ∧
      (r = .sPaylen → w.toNat ≤ s.cfg.maxSeg - 20) ∧ (r = .buflen → w.toNat ≤ s.cfg.maxSeg)
    (accepted → ∃ t, step s = .next t ∧ t.env.reply = .ok ∧ regValue t r = w ∧
      (∀ q, q ≠ r → regValue t q = regValue s q) ∧ (∀ a i, readArr t a i = readArr s a i) ∧
      t.hid = s.hid ∧ t.cfg = s.cfg) ∧
    (¬ accepted → step s = .next { s with
      cc.wref := true, env.inbox := rest, env.reply := .refused })

/-- The byte accesses: an accepted byte write changes that byte and nothing else, a byte read
changes nothing, and an index outside the array's capacity or a busy block refuses. `env.inbox` and
`env.reply` are the model's record of the access (log 2, 13). -/
def Obligations.ByteAccessTouchesOneByte : Prop :=
  ∀ (s : State) (a : Arr) (i : Nat) (b : Byte) (rest : List Input),
    (s.env.inbox = .host (.writeByte a i b) :: rest →
      (s.cc.busy = false → i < s.cfg.capacity a →
        ∃ t, step s = .next t ∧ t.env.reply = .ok ∧ readArr t a i = b ∧
          (∀ c k, c ≠ a ∨ k ≠ i → readArr t c k = readArr s c k) ∧
          (∀ r, regValue t r = regValue s r) ∧ t.hid = s.hid ∧ t.cfg = s.cfg) ∧
      (s.cc.busy = true ∨ s.cfg.capacity a ≤ i →
        step s = .next { s with
          cc.wref := true, env.inbox := rest, env.reply := .refused })) ∧
    (s.env.inbox = .host (.readByte a i) :: rest →
      (s.cc.busy = false → i < s.cfg.capacity a →
        step s = .next { s with env.inbox := rest, env.reply := .byte (readArr s a i) }) ∧
      (s.cc.busy = true ∨ s.cfg.capacity a ≤ i →
        step s = .next { s with
          cc.wref := true, env.inbox := rest, env.reply := .refused }))

/-- R27: STATUS is read at any time as BUSY in bit 0 and WREF in bit 1; a write clears WREF where
bit 1 is 1 and does nothing else, at any time. `env.inbox` and `env.reply` are the model's record of
the access (log 2, 13). -/
def Obligations.StatusReadsAndClears : Prop :=
  ∀ (s : State) (rest : List Input),
    (s.env.inbox = .host (.read .status) :: rest →
      step s = .next { s with
        env.inbox := rest
        env.reply := .word
          ((if s.cc.wref then 2#32 else 0#32) + (if s.cc.busy then 1#32 else 0#32)) }) ∧
    ∀ w : Word, s.env.inbox = .host (.write .status w) :: rest →
      step s = .next { s with
        cc.wref := s.cc.wref && !(w &&& 2#32 == 2#32)
        env.inbox := rest
        env.reply := .ok }

/-- R48: the offsets of the registers and of the array bytes; an access of a defined offset is the
named access, a refused read answering all ones; an access of any other offset is refused.
`env.inbox` and `env.reply` are the model's record of the access (log 2, 13); an access of the wrong
width for its offset falls under the last case (log 14). -/
def Obligations.RegisterMapOffsets : Prop :=
  (∀ (off : Nat) (r : Reg), regAt off = some r ↔ (off, r) ∈
    [(0x000, Reg.cmd), (0x004, .status), (0x008, .result), (0x00C, .ioerr), (0x010, .count),
     (0x014, .laddr), (0x018, .state), (0x01C, .paddr), (0x020, .pport), (0x024, .lport),
     (0x028, .seq), (0x02C, .ack), (0x030, .sum), (0x034, .csumout), (0x038, .buflen),
     (0x040, .sSrc), (0x044, .sDst), (0x048, .sSeqnum), (0x04C, .sAcknum), (0x050, .sFlags),
     (0x054, .sWindow), (0x058, .sChecksum), (0x05C, .sUrgent), (0x060, .sOptlen),
     (0x064, .sPaylen)]) ∧
  (∀ (cfg : Config) (off : Nat) (a : Arr) (i : Nat), cfg.Legal →
    (byteAt cfg off = some (a, i) ↔
      (a = .opt ∧ i < 40 ∧ off = 0x80 + i) ∨ (a = .buf ∧ i < cfg.maxSeg ∧ off = 0x10000 + i) ∨
      (a = .pay ∧ i < cfg.maxSeg - 20 ∧ off = 0x20000 + i))) ∧
  (∀ (s : State) (off : Nat) (rest : List Input),
    let named := fun op : HostOp => step { s with env.inbox := .host op :: rest }
    (∀ w, s.env.inbox = .bus (.writeWord off w) :: rest →
      (∀ r, regAt off = some r → step s = named (.write r w)) ∧
      (regAt off = none → step s = .next { s with
        cc.wref := true, env.inbox := rest, env.reply := .refused })) ∧
    (∀ b, s.env.inbox = .bus (.writeByte off b) :: rest →
      (∀ a i, byteAt s.cfg off = some (a, i) → step s = named (.writeByte a i b)) ∧
      (byteAt s.cfg off = none → step s = .next { s with
        cc.wref := true, env.inbox := rest, env.reply := .refused })) ∧
    (s.env.inbox = .bus (.readWord off) :: rest →
      (∀ r, regAt off = some r → ∃ t, named (.read r) = .next t ∧
        step s = .next
          (if t.env.reply = .refused then { t with env.reply := .word 0xFFFFFFFF#32 } else t)) ∧
      (regAt off = none → step s = .next { s with
        cc.wref := true, env.inbox := rest, env.reply := .word 0xFFFFFFFF#32 })) ∧
    (s.env.inbox = .bus (.readByte off) :: rest →
      (∀ a i, byteAt s.cfg off = some (a, i) → ∃ t, named (.readByte a i) = .next t ∧
        step s = .next
          (if t.env.reply = .refused then { t with env.reply := .byte 0xFF#8 } else t)) ∧
      (byteAt s.cfg off = none → step s = .next { s with
        cc.wref := true, env.inbox := rest, env.reply := .byte 0xFF#8 })))

/-! ### The checksum unit (40_checksum.md) -/

/-- R95, whole: CSUM_CLR. -/
def Obligations.CsumClrZeroesSum : Prop :=
  decodeCommand 0x00000001#32 = .ok .csumClr ∧
  ∀ s : State, Idle s →
    exec .csumClr s = .next { s with
      chk.sum := 0x00000000#32, cc.result := .ok, cc.count := 0#32 }

/-- R93, whole: CSUM_ADD. -/
def Obligations.CsumAddAddsTheBuffer : Prop :=
  decodeCommand 0x00000002#32 = .ok .csumAdd ∧
  (∀ s : State, Idle s →
    exec .csumAdd s = .next { s with
      chk.sum :=
        BitVec.ofNat 32 (s.chk.sum.toNat + sum16 (readBytes s .buf s.buf.len.toNat))
      cc.result := .ok
      cc.count := 0#32 }) ∧
  sum16 [0x01#8, 0x02#8, 0x03#8] = 0x0402 ∧ sum16 [] = 0

/-- R94, whole: CSUM_ADDW, its word, the illegal words of its opcode, and that it adds what CSUM_ADD
over the two bytes of the immediate adds. In the last clause `env.inbox` and `env.reply` are the
model's record of the host's write (log 2, 13). -/
def Obligations.CsumAddwAddsTheImmediate : Prop :=
  ∀ imm : Half,
    decodeCommand (imm.setWidth 32 <<< 8 ||| 0x00000003#32) = .ok (.csumAddw imm) ∧
    (∀ s : State, Idle s →
      exec (.csumAddw imm) s = .next { s with
        chk.sum := BitVec.ofNat 32 (s.chk.sum.toNat + imm.toNat)
        cc.result := .ok
        cc.count := 0#32 }) ∧
    sum16 (bytes16 imm) = imm.toNat ∧
    ∀ (s : State) (w : Word) (rest : List Input), Idle s →
      s.env.inbox = .host (.write .cmd w) :: rest → w.extractLsb' 0 8 = 0x03#8 →
      w >>> 24 ≠ 0#32 →
      step s = .next { s with
        cc.result := .eIllegalCmd, env.inbox := rest, env.reply := .ok }

/-- R97, whole: CSUM_FIN, with the rule's corner cases. -/
def Obligations.CsumFinCompilesSum : Prop :=
  decodeCommand 0x00000004#32 = .ok .csumFin ∧
  (∀ s : State, Idle s →
    exec .csumFin s = .next { s with
      chk.out := compile s.chk.sum, cc.result := .ok, cc.count := 0#32 }) ∧
  compile 0x00000000#32 = 0xFFFF#16 ∧ compile 0x0000FFFF#32 = 0x0000#16 ∧
  compile 0xFFFFFFFF#32 = 0x0000#16 ∧ compile 0x0001FFFE#32 = 0x0000#16 ∧
  compile 0x000310CB#32 = 0xEF31#16

/-- R99, whole: CSUM_SEG, with the rule's example; it does not test `wf(S)`, and a segment longer than
MAX_SEG ends with E_TOOLONG and S unchanged. -/
def Obligations.CsumSegFillsTheChecksum : Prop :=
  decodeCommand 0x00000005#32 = .ok .csumSeg ∧
  (∀ s : State, Idle s →
    (20 + s.seg.optlen.toNat + s.seg.paylen.toNat ≤ s.cfg.maxSeg →
      exec .csumSeg s = .next { s with
        seg.hdr.checksum := tcpsum s.laddr s.ctx.paddr
          { hdr := s.seg.hdr
            opt := readBytes s .opt s.seg.optlen.toNat
            pay := readBytes s .pay s.seg.paylen.toNat }
        cc.result := .ok
        cc.count := 0#32 }) ∧
    (s.cfg.maxSeg < 20 + s.seg.optlen.toNat + s.seg.paylen.toNat →
      exec .csumSeg s = .next { s with cc.result := .eTooLong })) ∧
  tcpsum 0x0A00020F#32 0xCB007105#32
    { hdr :=
        { src := 4000#16, dst := 80#16, seqnum := 0x12345678#32, acknum := 0#32, flags := 0x5002#16
          window := 0xFFFF#16, checksum := 0#16, urgent := 0#16 }
      opt := []
      pay := [] } = 0xEF31#16

/-- R90, R91 and R92, whole: `sum16` is the sum of big-endian words, a lone last byte is a high byte,
and the four laws, the counterexample to additivity among them. -/
def Obligations.Sum16WordsAndLaws : Prop :=
  (∀ B : List Byte, B.length % 2 = 0 →
    sum16 B = ((List.range (B.length / 2)).map fun i => (be16 B (2 * i)).toNat).sum) ∧
  (∀ B : List Byte, B.length % 2 = 1 →
    sum16 B = sum16 (B.take (B.length - 1)) + (B.getD (B.length - 1) 0#8).toNat <<< 8) ∧
  (∀ A B : List Byte, A.length % 2 = 0 → sum16 (A ++ B) = sum16 A + sum16 B) ∧
  (sum16 [0x01#8] + sum16 [0x02#8] = 0x0300 ∧ sum16 [0x01#8, 0x02#8] = 0x0102) ∧
  (∀ R R' : List (List Byte), R.Perm R' → (R.map sum16).sum = (R'.map sum16).sum) ∧
  ∀ B : List Byte, sum16 B ≤ 65535 * ((B.length + 1) / 2)

/-- R96, whole: `fold` obeys the equations of the rule's loop, needs at most two passes, and gives
the residue modulo 65535 that is zero only for zero; `compile` is its complement, zero exactly where
`fold` is 0xFFFF; a pseudo-header never sums to zero. -/
def Obligations.FoldAndCompile : Prop :=
  (∀ s : Word,
    (s >>> 16 = 0#32 → fold s = s) ∧
    (s >>> 16 ≠ 0#32 → fold s = fold ((s &&& 0xFFFF#32) + (s >>> 16))) ∧
    (foldPass s).toNat ≤ 0x1FFFE ∧ foldPass (foldPass s) >>> 16 = 0#32 ∧
    (fold s).toNat ≤ 0xFFFF ∧
    (fold s).toNat % 65535 = s.toNat % 65535 ∧
    (fold s = 0#32 ↔ s = 0#32) ∧
    (compile s).setWidth 32 = ~~~(fold s) &&& 0xFFFF#32 ∧
    (compile s).toNat = 0xFFFF - (fold s).toNat ∧
    (compile s = 0x0000#16 ↔ fold s = 0x0000FFFF#32)) ∧
  ∀ (src dst : Word) (n : Nat), 0 < pseudoSum src dst n

/-- R98, whole: the checksum of a segment is the folded sum of five regions, the checksum field of the
segment being zero. That is the sum over the pseudo-header of 30_encoding.md R70 and the segment; it
does not depend on the checksum field on entry nor on which address is the source; and neither it nor
a series of at most 65536 words can wrap (R100). -/
def Obligations.TcpsumCoversThePseudoHeader : Prop :=
  (∀ (src dst : Word) (T : Segment), T.length ≤ 65535 →
    tcpsum src dst T = compile (BitVec.ofNat 32
      (sum16 (bytes32 src) + sum16 (bytes32 dst) + 0x0006 +
        (encodeSegment (T.withChecksum 0x0000#16)).length +
        sum16 (encodeSegment (T.withChecksum 0x0000#16)))) ∧
    sum16 (bytes32 src) = (src.extractLsb' 16 16).toNat + (src.extractLsb' 0 16).toNat ∧
    (encodeSegment (T.withChecksum 0x0000#16)).length = 20 + T.opt.length + T.pay.length ∧
    tcpsum src dst T = compile (BitVec.ofNat 32 (sum16
      (bytes32 src ++ bytes32 dst ++ [0x00#8, 0x06#8] ++ bytes16 (BitVec.ofNat 16 T.length) ++
        encodeSegment (T.withChecksum 0x0000#16)))) ∧
    pseudoSum src dst T.length + sum16 (encodeSegment (T.withChecksum 0x0000#16)) < 2 ^ 32) ∧
  (∀ (src dst : Word) (T : Segment) (c : Half),
    tcpsum src dst T = tcpsum dst src T ∧
    tcpsum src dst (T.withChecksum c) = tcpsum src dst T) ∧
  ∀ R : List (List Byte), (R.map fun B => (B.length + 1) / 2).sum ≤ 65536 →
    (R.map sum16).sum < 2 ^ 32

/-- V-C11: a segment that carries the checksum `tcpsum` gives it checks at a receiver: the sum over
the pseudo-header and the finished segment folds to 0xFFFF. -/
def Obligations.FinishedSegmentChecks : Prop :=
  ∀ (src dst : Word) (T : Segment), T.length ≤ 65535 →
    fold (BitVec.ofNat 32 (pseudoSum src dst T.length +
      sum16 (encodeSegment (T.withChecksum (tcpsum src dst T))))) = 0x0000FFFF#32

/-! ### The codec unit (41_codec.md) -/

/-- R110, whole: the three failures in the rule's order and, on success, every field as a number read
from its bytes, the options and the payload. The header length is four times the top nibble of byte
12 (30_encoding.md R64). -/
def Obligations.DecodeReadsEveryField : Prop :=
  ∀ B : List Byte,
    let n := B.length
    let h := 4 * ((B.getD 12 0#8).toNat / 16)
    let byte := fun i => (B.getD i 0#8).toNat
    (n < 20 → decodeSegment B = .error .eShort) ∧
    (20 ≤ n → h < 20 → decodeSegment B = .error .eHlenLow) ∧
    (20 ≤ n → 20 ≤ h → n < h → decodeSegment B = .error .eHlenHigh) ∧
    (20 ≤ n → 20 ≤ h → h ≤ n → ∃ T, decodeSegment B = .ok T ∧
      T.hdr.src.toNat = byte 0 * 256 + byte 1 ∧ T.hdr.dst.toNat = byte 2 * 256 + byte 3 ∧
      T.hdr.seqnum.toNat = byte 4 * 2 ^ 24 + byte 5 * 2 ^ 16 + byte 6 * 2 ^ 8 + byte 7 ∧
      T.hdr.acknum.toNat = byte 8 * 2 ^ 24 + byte 9 * 2 ^ 16 + byte 10 * 2 ^ 8 + byte 11 ∧
      T.hdr.flags.toNat = byte 12 * 256 + byte 13 ∧
      T.hdr.window.toNat = byte 14 * 256 + byte 15 ∧
      T.hdr.checksum.toNat = byte 16 * 256 + byte 17 ∧
      T.hdr.urgent.toNat = byte 18 * 256 + byte 19 ∧
      T.opt = (B.drop 20).take (h - 20) ∧ T.pay = B.drop h)

/-- R111, whole: DECODE. A failure changes RESULT alone; a success loads S, leaves the array bytes
past the new lengths, and changes nothing else. -/
def Obligations.DecodeLoadsS : Prop :=
  decodeCommand 0x00000010#32 = .ok .decode ∧
  ∀ s : State, Idle s →
    (∀ c, decodeSegment (readBytes s .buf s.buf.len.toNat) = .error c →
      exec .decode s = .next { s with cc.result := c }) ∧
    ∀ T, decodeSegment (readBytes s .buf s.buf.len.toNat) = .ok T →
      ∃ t, exec .decode s = .next t ∧
        t = { s with seg := t.seg, cc.result := .ok, cc.count := 0#32 } ∧
        t.seg.hdr = T.hdr ∧
        t.seg.optlen.toNat = T.opt.length ∧
        (∀ i, readArr t .opt i = if i < T.opt.length then T.opt.getD i 0#8 else readArr s .opt i) ∧
        t.seg.paylen.toNat = T.pay.length ∧
        (∀ i, readArr t .pay i = if i < T.pay.length then T.pay.getD i 0#8 else readArr s .pay i) ∧
        (∀ i, readArr t .buf i = readArr s .buf i) ∧
        t.seg.optlen.toNat + 20 = hlen t.seg.hdr.flags ∧ t.seg.optlen.toNat % 4 = 0 ∧
        20 + t.seg.optlen.toNat + t.seg.paylen.toNat = s.buf.len.toNat

/-- R113, whole: ENCODE. A segment longer than MAX_SEG changes RESULT alone; otherwise BUF holds the
header bytes in order, the options and the payload, bytes past them stay, and S is unchanged. A legal
payload length alone cannot make the segment too long. -/
def Obligations.EncodeWritesBuf : Prop :=
  decodeCommand 0x00000011#32 = .ok .encode ∧
  ∀ s : State, Idle s → s.cfg.Legal →
    let n := 20 + s.seg.optlen.toNat + s.seg.paylen.toNat
    let h := s.seg.hdr
    let B := bytes16 h.src ++ bytes16 h.dst ++ bytes32 h.seqnum ++ bytes32 h.acknum ++
      bytes16 h.flags ++ bytes16 h.window ++ bytes16 h.checksum ++ bytes16 h.urgent ++
      readBytes s .opt s.seg.optlen.toNat ++ readBytes s .pay s.seg.paylen.toNat
    (s.cfg.maxSeg < n → exec .encode s = .next { s with cc.result := .eTooLong }) ∧
    (n ≤ s.cfg.maxSeg → ∃ t, exec .encode s = .next t ∧
      t = { s with buf := t.buf, cc.result := .ok, cc.count := BitVec.ofNat 32 n } ∧
      t.buf.len.toNat = n ∧
      (∀ i, readArr t .buf i = if i < n then B.getD i 0#8 else readArr s .buf i) ∧
      (∀ i, readArr t .opt i = readArr s .opt i) ∧ ∀ i, readArr t .pay i = readArr s .pay i) ∧
    (s.seg.paylen.toNat ≤ s.cfg.maxSeg - 20 → n ≤ s.cfg.maxSeg + s.seg.optlen.toNat)

/-- R114 (a) to (c): encoding what was decoded gives the bytes back, decoding what was encoded gives
a well-formed segment back, and never gives an ill-formed one back. -/
def Obligations.CodecRoundTrips : Prop :=
  (∀ (B : List Byte) (T : Segment), decodeSegment B = .ok T → encodeSegment T = B) ∧
  (∀ T : Segment, hlen T.hdr.flags = 20 + T.opt.length →
    decodeSegment (encodeSegment T) = .ok T) ∧
  ∀ T : Segment, hlen T.hdr.flags ≠ 20 + T.opt.length →
    decodeSegment (encodeSegment T) ≠ .ok T

/-- R114 (d): DECODE then ENCODE leaves BUF and BUFLEN as they were; ENCODE then DECODE leaves S as
it was if `wf(S)` held. -/
def Obligations.DecodeAndEncodeCommandsRoundTrip : Prop :=
  (∀ s t : State, Idle s → s.cfg.Legal → s.buf.len.toNat ≤ s.cfg.maxSeg →
    exec .decode s = .next t → t.cc.result = .ok →
    ∃ u, exec .encode t = .next u ∧ u.cc.result = .ok ∧ u.buf.len = s.buf.len ∧
      u.cc.count.toNat = s.buf.len.toNat ∧ ∀ i, readArr u .buf i = readArr s .buf i) ∧
  ∀ s t : State, Idle s → s.cfg.Legal → segWellFormed s →
    exec .encode s = .next t → t.cc.result = .ok →
    ∃ u, exec .decode t = .next u ∧ u.cc.result = .ok ∧ u.seg.hdr = s.seg.hdr ∧
      u.seg.optlen = s.seg.optlen ∧ u.seg.paylen = s.seg.paylen ∧
      (∀ i, readArr u .opt i = readArr s .opt i) ∧ ∀ i, readArr u .pay i = readArr s .pay i

/-- R115, whole: the sizes of a decoded segment. -/
def Obligations.DecodedSizes : Prop :=
  (∀ (B : List Byte) (T : Segment) (maxSeg : Nat), decodeSegment B = .ok T → B.length ≤ maxSeg →
    20 ≤ B.length ∧ T.opt.length ≤ 40 ∧ T.opt.length % 4 = 0 ∧
    T.pay.length = B.length - hlen T.hdr.flags ∧ T.pay.length ≤ maxSeg - 20 ∧
    (B.length = 20 → T.hdr.flags.extractLsb' 12 4 = 5#4)) ∧
  ∃ B T, decodeSegment B = .ok T ∧ B.length = 20

/-! ### The FSM unit (42_fsm.md) -/

/-- R173, whole: an FSM command issued in another STATE than it needs changes RESULT and nothing
else. -/
def Obligations.WrongStateChangesResultOnly : Prop :=
  Code.value .eState = 0x02#8 ∧
  ∀ (s : State) (i : Instr), Idle s →
    (i ∈ [Instr.ctxLoad, .connect, .accept] → s.ctx.state ≠ .closed →
      exec i s = .next { s with cc.result := .eState }) ∧
    (i ∈ [Instr.recv, .send, .close] → s.ctx.state ≠ .established →
      exec i s = .next { s with cc.result := .eState })

/-- R139, whole: CTX_LOAD. -/
def Obligations.CtxLoadAdoptsTheContext : Prop :=
  decodeCommand 0x00000020#32 = .ok .ctxLoad ∧
  ∀ s : State, Idle s →
    (s.ctx.state ≠ .closed → exec .ctxLoad s = .next { s with cc.result := .eState }) ∧
    (s.ctx.state = .closed →
      exec .ctxLoad s = .next { s with
        ctx.state := .established, cc.result := .ok, cc.count := 0#32 })

/-- R134, whole: the segment `build` makes, and that it reads no part of S, BUF or the checksum
unit. -/
def Obligations.BuildMakesTheRulesSegment : Prop :=
  ∀ (c : Half) (P : List Byte) (s : State), c &&& 0xF000#16 = 0#16 →
    let draft : Segment :=
      { hdr :=
          { src := s.ctx.lport, dst := s.ctx.pport, seqnum := s.ctx.seq, acknum := s.ctx.ack
            flags := 0x5000#16 ||| c, window := s.cfg.txWindow, checksum := 0x0000#16
            urgent := 0x0000#16 }
        opt := []
        pay := P }
    build c P s =
      encodeSegment (draft.withChecksum (tcpsum s.laddr s.ctx.paddr draft)) ∧
    decodeSegment (build c P s) =
      .ok (draft.withChecksum (tcpsum s.laddr s.ctx.paddr draft)) ∧
    (build c P s).length = 20 + P.length ∧
    ∀ (g : SegRegs) (b : DgramBuf) (k : ChecksumRegs),
      build c P { s with seg := g, buf := b, chk := k } = build c P s

/-- CONNECT up to its wait (R140): one draw to SEQ, ACK zero, the SYN given to the link; then the
wait in SynSent, or E_IO with STATE back to Closed. The draw and the link's answer are free; how
`env` supplies and records them is the model's (log 3, 4, 13). -/
def Obligations.ConnectSendsTheSyn : Prop :=
  decodeCommand 0x00000021#32 = .ok .connect ∧
  ∀ s : State, Idle s → s.ctx.state = .closed →
    let r : State := { s with
      ctx.seq := nextDraw s, ctx.ack := 0x00000000#32, ctx.state := .synSent
      env.draws := s.env.draws.tail, env.drawCount := s.env.drawCount + 1 }
    (nextAnswer s = .ok →
      exec .connect s = .next { linkTx (build 0x0002#16 [] r) r with
        cc.busy := true, hid.cur := .connect, hid.phase := .rxWait }) ∧
    ∀ e, nextAnswer s = .err e →
      exec .connect s = .next { linkTx (build 0x0002#16 [] r) r with
        ctx.state := .closed, cc.result := .eIo, cc.ioerr := e }

/-- ACCEPT up to its wait (R141): PPORT and ACK from the SYN in S, one draw to SEQ, the SYN-ACK
given to the link; then the wait in SynRcvd, or E_IO with STATE back to Closed. The draw and the
link's answer are free; how `env` supplies and records them is the model's (log 3, 4, 13). -/
def Obligations.AcceptSendsTheSynAck : Prop :=
  decodeCommand 0x00000022#32 = .ok .accept ∧
  ∀ s : State, Idle s → s.ctx.state = .closed →
    let r : State := { s with
      ctx.pport := s.seg.hdr.src, ctx.ack := s.seg.hdr.seqnum + 1#32, ctx.seq := nextDraw s
      ctx.state := .synRcvd
      env.draws := s.env.draws.tail, env.drawCount := s.env.drawCount + 1 }
    (nextAnswer s = .ok →
      exec .accept s = .next { linkTx (build 0x0012#16 [] r) r with
        cc.busy := true, hid.cur := .accept, hid.phase := .rxWait }) ∧
    ∀ e, nextAnswer s = .err e →
      exec .accept s = .next { linkTx (build 0x0012#16 [] r) r with
        ctx.state := .closed, cc.result := .eIo, cc.ioerr := e }

/-- RECV up to its wait (R142): nothing is sent. -/
def Obligations.RecvStartsWaiting : Prop :=
  decodeCommand 0x00000023#32 = .ok .recv ∧
  ∀ s : State, Idle s → s.ctx.state = .established →
    exec .recv s = .next { s with
      cc.busy := true, hid.cur := .recv, hid.phase := .rxWait }

/-- SEND up to its wait (R143): the payload and its length are sampled before anything is received,
and the PSH-ACK is given to the link; then the wait, or E_IO with STATE still Established. The
link's answer is free; how `env` supplies and records it, and the register that holds the sampled
length, are the model's (log 4, 9, 13). -/
def Obligations.SendTransmitsThePayload : Prop :=
  decodeCommand 0x00000024#32 = .ok .send ∧
  ∀ s : State, Idle s → s.ctx.state = .established →
    let B := build 0x0018#16 (readBytes s .pay s.seg.paylen.toNat) s
    (nextAnswer s = .ok →
      exec .send s = .next { linkTx B s with
        cc.busy := true, hid.cur := .send, hid.phase := .rxWait
        hid.sendLen := s.seg.paylen }) ∧
    ∀ e, nextAnswer s = .err e →
      exec .send s = .next { linkTx B s with cc.result := .eIo, cc.ioerr := e }

/-- R144, whole: CLOSE sends one FIN-ACK and closes, whatever the link answers. `linkTx` also
records the datagram and the answer in `env`, the model's history (log 4, 13). -/
def Obligations.CloseIsFireAndForget : Prop :=
  decodeCommand 0x00000025#32 = .ok .close ∧
  ∀ s : State, Idle s →
    (s.ctx.state ≠ .established → exec .close s = .next { s with cc.result := .eState }) ∧
    (s.ctx.state = .established →
      exec .close s = .next { linkTx (build 0x0011#16 [] s) s with
        ctx.state := .closed, cc.result := .ok, cc.count := 0#32 })

/-- SEG_SYN_ACK at a waiting CONNECT (R140): SEQ and ACK from the segment, the ACK given to the
link, Established; or, where the link refuses the ACK, E_IO with STATE back to Closed. The link's
answer is free; how `env` supplies and records it is the model's (log 4, 13), as is that a segment
kind is run on the datagram in BUF (log 10). -/
def Obligations.SynAckCompletesConnect : Prop :=
  ∀ (s : State) (hl : BitVec 4) (rsv : BitVec 7) (T : Segment), s.cfg.Legal →
    Waiting .connect s → Offered s (flagsField hl rsv .synAck) T → Matches s T →
    (Instr.segSynAck hl rsv).wf s.cfg.flagMask = true →
    let r : State := { storeSegment T s with
      ctx.seq := T.hdr.acknum, ctx.ack := T.hdr.seqnum + 1#32 }
    (nextAnswer s = .ok →
      exec (.segSynAck hl rsv) s = .next { linkTx (build 0x0010#16 [] r) r with
        ctx.state := .established
        cc.busy := false, cc.result := .ok, cc.count := 0#32, hid.phase := .idle }) ∧
    ∀ e, nextAnswer s = .err e →
      exec (.segSynAck hl rsv) s = .next { linkTx (build 0x0010#16 [] r) r with
        ctx.state := .closed
        cc.busy := false, cc.result := .eIo, cc.ioerr := e, hid.phase := .idle }

/-- SEG_ACK at a waiting ACCEPT (R141): SEQ and ACK from the segment, Established, nothing sent.
That a segment kind is run on the datagram in BUF is the model's (log 10). -/
def Obligations.AckCompletesAccept : Prop :=
  ∀ (s : State) (hl : BitVec 4) (rsv : BitVec 7) (T : Segment), s.cfg.Legal →
    Waiting .accept s → Offered s (flagsField hl rsv .ack) T → Matches s T →
    (Instr.segAck hl rsv).wf s.cfg.flagMask = true →
    exec (.segAck hl rsv) s = .next { storeSegment T s with
      ctx.seq := T.hdr.acknum, ctx.ack := T.hdr.seqnum, ctx.state := .established
      cc.busy := false, cc.result := .ok, cc.count := 0#32, hid.phase := .idle }

/-- SEG_ACK at a waiting SEND (R143): SEQ is what the peer acknowledges, ACK the peer's sequence
number, COUNT the length sampled when the command was issued. The register that holds the sampled
length is the model's (log 9), as is that a segment kind is run on the datagram in BUF (log 10). -/
def Obligations.AckCompletesSend : Prop :=
  ∀ (s : State) (hl : BitVec 4) (rsv : BitVec 7) (T : Segment), s.cfg.Legal →
    Waiting .send s → Offered s (flagsField hl rsv .ack) T → Matches s T →
    (Instr.segAck hl rsv).wf s.cfg.flagMask = true →
    exec (.segAck hl rsv) s = .next { storeSegment T s with
      ctx.seq := T.hdr.acknum, ctx.ack := T.hdr.seqnum
      cc.busy := false, cc.result := .ok, cc.count := s.hid.sendLen.setWidth 32
      hid.phase := .idle }

/-- SEG_PSH_ACK at a waiting RECV (R142): SEQ from the segment, ACK the end of its payload, one ACK
given to the link, COUNT the payload's length; or, where the link refuses the ACK, E_IO with COUNT
not written and STATE still Established. The link's answer is free; how `env` supplies and records
it is the model's (log 4, 13), as is that a segment kind is run on the datagram in BUF (log 10). -/
def Obligations.PshAckCompletesRecv : Prop :=
  ∀ (s : State) (hl : BitVec 4) (rsv : BitVec 7) (T : Segment), s.cfg.Legal →
    Waiting .recv s → Offered s (flagsField hl rsv .pshAck) T → Matches s T →
    (Instr.segPshAck hl rsv).wf s.cfg.flagMask = true →
    let r : State := { storeSegment T s with
      ctx.seq := T.hdr.acknum
      ctx.ack := BitVec.ofNat 32 (T.hdr.seqnum.toNat + T.pay.length) }
    (nextAnswer s = .ok →
      exec (.segPshAck hl rsv) s = .next { linkTx (build 0x0010#16 [] r) r with
        cc.busy := false, cc.result := .ok, cc.count := BitVec.ofNat 32 T.pay.length
        hid.phase := .idle }) ∧
    ∀ e, nextAnswer s = .err e →
      exec (.segPshAck hl rsv) s = .next { linkTx (build 0x0010#16 [] r) r with
        cc.busy := false, cc.result := .eIo, cc.ioerr := e, hid.phase := .idle }

/-- Every other kind at a waiting RECV is taken into S and skipped (R142 a): SEG_SYN, SEG_SYN_ACK,
SEG_ACK and SEG_FIN_ACK by name, and any matching segment whose control bits are not PSH-ACK. The
wait goes on. That a segment kind is run on the datagram in BUF is the model's (log 10). -/
def Obligations.RecvSkipsOtherKinds : Prop :=
  (∀ (s : State) (hl : BitVec 4) (rsv : BitVec 7) (T : Segment), s.cfg.Legal →
    Waiting .recv s → Matches s T → reservedClear s.cfg.flagMask rsv = true →
    (Offered s (flagsField hl rsv .syn) T →
      exec (.segSyn hl rsv) s = .next (storeSegment T s)) ∧
    (Offered s (flagsField hl rsv .synAck) T →
      exec (.segSynAck hl rsv) s = .next (storeSegment T s)) ∧
    (Offered s (flagsField hl rsv .ack) T →
      exec (.segAck hl rsv) s = .next (storeSegment T s)) ∧
    (Offered s (flagsField hl rsv .finAck) T →
      exec (.segFinAck hl rsv) s = .next (storeSegment T s))) ∧
  ∀ (s : State) (B : List Byte) (T : Segment) (rest : List Input), s.cfg.Legal →
    Waiting .recv s → s.env.inbox = .link (.dgram B) :: rest →
    decodeSegment (B.take s.cfg.maxSeg) = .ok T → Matches s T →
    T.hdr.flags &&& s.cfg.flagMask ≠ 0x0018#16 →
    step s = .next (storeSegment T (taken B s))

/-- R176, whole: a matching segment with other control bits than the awaited ones ends CONNECT and
ACCEPT with E_HANDSHAKE and STATE Closed, the segment in S, nothing sent, SEQ, ACK and PPORT as they
were. `env.inbox` and the history in `taken` are the model's record of the link's event (log 2, 13).
-/
def Obligations.OtherKindFailsTheHandshake : Prop :=
  Code.value .eHandshake = 0x07#8 ∧
  ∀ (s : State) (B : List Byte) (T : Segment) (rest : List Input), s.cfg.Legal →
    s.env.inbox = .link (.dgram B) :: rest →
    decodeSegment (B.take s.cfg.maxSeg) = .ok T → Matches s T →
    (Waiting .connect s → T.hdr.flags &&& s.cfg.flagMask ≠ 0x0012#16 →
      step s = .next { storeSegment T (taken B s) with
        ctx.state := .closed, cc.busy := false, cc.result := .eHandshake, hid.phase := .idle }) ∧
    (Waiting .accept s → T.hdr.flags &&& s.cfg.flagMask ≠ 0x0010#16 →
      step s = .next { storeSegment T (taken B s) with
        ctx.state := .closed, cc.busy := false, cc.result := .eHandshake, hid.phase := .idle })

/-- R177, whole: a matching segment with other control bits than ACK ends SEND with E_BROKEN_PIPE;
STATE, SEQ, ACK and COUNT are unchanged. `env.inbox` and the history in `taken` are the model's
record of the link's event (log 2, 13). -/
def Obligations.OtherKindBreaksThePipe : Prop :=
  Code.value .eBrokenPipe = 0x08#8 ∧
  ∀ (s : State) (B : List Byte) (T : Segment) (rest : List Input), s.cfg.Legal →
    s.env.inbox = .link (.dgram B) :: rest →
    decodeSegment (B.take s.cfg.maxSeg) = .ok T → Matches s T →
    Waiting .send s → T.hdr.flags &&& s.cfg.flagMask ≠ 0x0010#16 →
    step s = .next { storeSegment T (taken B s) with
      cc.busy := false, cc.result := .eBrokenPipe, hid.phase := .idle }

/-- R137 at a `LinkRx()` point: a link error ends a waiting command with E_IO and the link's code in
IOERR; CONNECT and ACCEPT put STATE back to Closed, RECV and SEND leave it. `env.inbox` and
`env.trace` are the model's record of the link's event (log 2, 13). -/
def Obligations.LinkErrorEndsTheWait : Prop :=
  ∀ (s : State) (e : Word) (rest : List Input), s.env.inbox = .link (.err e) :: rest →
    let r : State := { s with
      env.inbox := rest, env.trace := s.env.trace ++ [.rx (.err e)] }
    (Waiting .connect s ∨ Waiting .accept s →
      step s = .next { r with
        ctx.state := .closed
        cc.busy := false, cc.result := .eIo, cc.ioerr := e, hid.phase := .idle }) ∧
    (Waiting .recv s ∨ Waiting .send s →
      step s = .next { r with
        cc.busy := false, cc.result := .eIo, cc.ioerr := e, hid.phase := .idle })

/-- A datagram of at least 20 bytes whose header length is bad, in a wait (R135, R179): dropped
under policy `drop`, which never produces E_MALFORMED; under `fault` it ends the command with
E_MALFORMED, S not written. `env.inbox` and the history in `taken` are the model's record of the
link's event (log 2, 13). -/
def Obligations.BadHeaderLengthInAWait : Prop :=
  Code.value .eMalformed = 0x0A#8 ∧
  (∀ s t : State, s.cfg.badHlen = .drop → step s = .next t →
    t.cc.result = .eMalformed → s.cc.result = .eMalformed) ∧
  ∀ (s : State) (B : List Byte) (rest : List Input), s.cfg.Legal →
    s.env.inbox = .link (.dgram B) :: rest → 20 ≤ (B.take s.cfg.maxSeg).length →
    let h := 4 * ((B.getD 12 0#8).toNat / 16)
    h < 20 ∨ (B.take s.cfg.maxSeg).length < h →
    (s.cfg.badHlen = .drop → ∀ c, Waiting c s → step s = .next (taken B s)) ∧
    (s.cfg.badHlen = .fault →
      (Waiting .connect s ∨ Waiting .accept s →
        step s = .next { taken B s with
          ctx.state := .closed
          cc.busy := false, cc.result := .eMalformed, hid.phase := .idle }) ∧
      (Waiting .recv s ∨ Waiting .send s →
        step s = .next { taken B s with
          cc.busy := false, cc.result := .eMalformed, hid.phase := .idle }))

/-- The rest of `wait_match` (R135, R136): a datagram too short for a header is dropped, a decoded
segment with other ports is taken into S and skipped; the wait goes on in both cases, under either
policy. `env.inbox` and the history in `taken` are the model's record of the link's event (log 2,
13). -/
def Obligations.NoiseIsSkipped : Prop :=
  ∀ (s : State) (c : Cmd) (B : List Byte) (rest : List Input), s.cfg.Legal → Waiting c s →
    s.env.inbox = .link (.dgram B) :: rest →
    ((B.take s.cfg.maxSeg).length < 20 → step s = .next (taken B s)) ∧
    ∀ T, decodeSegment (B.take s.cfg.maxSeg) = .ok T → ¬ Matches s T →
      step s = .next (storeSegment T (taken B s))

/-- R53 and R135: a datagram taken from the link is in BUF, cut to MAX_SEG bytes; BUF past it, and
every other register and array, is as before. `env` is the model's record of the link's event (log
2, 13). -/
def Obligations.TakenDatagramIsInBuf : Prop :=
  ∀ (s : State) (B : List Byte), s.cfg.Legal →
    (taken B s).buf.len.toNat = min s.cfg.maxSeg B.length ∧
    (∀ i, readArr (taken B s) .buf i =
      if i < min s.cfg.maxSeg B.length then B.getD i 0#8 else readArr s .buf i) ∧
    taken B s = { s with
      buf := (taken B s).buf
      env.inbox := s.env.inbox.tail
      env.trace := s.env.trace ++ [.rx (.dgram B)] }

/-- R131: STATE changes in a step only by the moves of the rule's table, each from the instruction
or the link event the table names, or by reset. That the block is given a segment kind at a
`LinkRx()` point is the model's reading of the table (log 10). -/
def Obligations.StateMovesAreTheTables : Prop :=
  ∀ s t : State, BlockInv s → step s = .next t → t.ctx.state ≠ s.ctx.state → StateMove s t

/-! ### The whole machine -/

/-- The state after reset satisfies the invariant. -/
def Obligations.ResetStateIsInvariant : Prop := BlockInv State.reset

/-- Every step keeps the invariant: legal lengths, arrays in canonical form and inside their
capacity, PHASE IDLE and STATE Closed or Established when idle, and a busy block waiting in the STATE
its command holds. -/
def Obligations.StepKeepsTheInvariant : Prop :=
  ∀ s t : State, BlockInv s → step s = .next t → BlockInv t

/-- R29, R30, R182: RESULT changes at a completion alone, COUNT at an OK completion alone, IOERR at an
E_IO completion alone. The step is a write of CMD to an idle block (R26), by name or at its offset, or
the taking of a link event by a waiting one, and a completion leaves BUSY = 0 and PHASE = IDLE. BUSY
falls only at a link event of a wait (R31, R51). Reset, which completes nothing, is set apart (R201);
`env.inbox` is the model's (log 2). -/
def Obligations.CompletionWritesTheCodes : Prop :=
  ∀ s t : State, step s = .next t → s.env.inbox.head? ≠ some .reset →
    let commanded := s.cc.busy = false ∧ ∃ w,
      s.env.inbox.head? = some (.host (.write .cmd w)) ∨
      s.env.inbox.head? = some (.bus (.writeWord 0 w))
    let offered := s.hid.phase = .rxWait ∧ ∃ ev, s.env.inbox.head? = some (.link ev)
    let completed := (commanded ∨ offered) ∧ t.cc.busy = false ∧ t.hid.phase = .idle
    (t.cc.result ≠ s.cc.result → completed) ∧
    (t.cc.count ≠ s.cc.count → completed ∧ t.cc.result = .ok) ∧
    (t.cc.ioerr ≠ s.cc.ioerr → completed ∧ t.cc.result = .eIo) ∧
    (s.cc.busy = true → t.cc.busy = false → offered)

/-- R35, its last column: which instruction writes which register. LADDR, PADDR and LPORT are written
by none; the parameters never change. -/
def Obligations.CommandsWriteOnlyTheirRegisters : Prop :=
  ∀ (i : Instr) (s t : State), exec i s = .next t →
    t.cfg = s.cfg ∧ t.laddr = s.laddr ∧ t.ctx.paddr = s.ctx.paddr ∧
    t.ctx.lport = s.ctx.lport ∧ t.epoch = s.epoch ∧
    (i ≠ .accept → t.ctx.pport = s.ctx.pport) ∧
    (i ≠ .csumClr → i ≠ .csumAdd → (∀ imm, i ≠ .csumAddw imm) → t.chk.sum = s.chk.sum) ∧
    (i ≠ .csumFin → t.chk.out = s.chk.out) ∧
    (i ≠ .encode → t.buf = s.buf) ∧
    ((∃ w, encode i = .command w) → i ≠ .decode → i ≠ .csumSeg → t.seg = s.seg) ∧
    ((∃ w, encode i = .command w) → i ≠ .connect → i ≠ .accept →
      t.ctx.seq = s.ctx.seq ∧ t.ctx.ack = s.ctx.ack)

/-- R57 and R133: the history of link events only grows; a step adds to it only where it runs
CONNECT, ACCEPT, SEND or CLOSE, or takes an event the link offers a waiting command; and a step
makes a draw only where it runs CONNECT or ACCEPT in Closed, and then exactly one. `LinkTx(B)` adds
the datagram `B` and its answer to the history, takes that answer and changes nothing else; a draw and
an answer are the first the environment has ready, or else a free value. The history, the counts and
the ready values are the model's (log 3, 4, 13). -/
def Obligations.LinkEventsAndDrawsComeFromTheFsm : Prop :=
  (∀ s t : State, step s = .next t →
    s.env.trace <+: t.env.trace ∧
    (t.env.trace ≠ s.env.trace →
      (∃ i s', fetch s = .run i s' ∧ i ∈ [Instr.connect, .accept, .send, .close]) ∨
      (s.hid.phase = .rxWait ∧ ∃ ev, s.env.inbox.head? = some (.link ev))) ∧
    (t.env.drawCount ≠ s.env.drawCount →
      t.env.drawCount = s.env.drawCount + 1 ∧ s.ctx.state = .closed ∧
      ∃ i s', fetch s = .run i s' ∧ i ∈ [Instr.connect, .accept])) ∧
  (∀ (B : List Byte) (s : State), linkTx B s = { s with
    env.txAnswers := s.env.txAnswers.tail
    env.txCount := s.env.txCount + 1
    env.trace := s.env.trace ++ [.tx B (nextAnswer s)] }) ∧
  ∀ s : State,
    (∀ d ds, s.env.draws = d :: ds → nextDraw s = d) ∧
    (s.env.draws = [] → nextDraw s = Config.freeDraw s.env.drawCount) ∧
    (∀ a as, s.env.txAnswers = a :: as → nextAnswer s = a) ∧
    (s.env.txAnswers = [] → nextAnswer s = Config.freeAnswer s.env.txCount)

/-- R37, whole: what reset leaves. Every register reads 0, the block is idle and Closed, and every
array byte is unspecified: a free value (log 7). S is not well formed, and a DECODE of it after ENCODE
fails with E_HLEN_LOW. -/
def Obligations.ResetValues : Prop :=
  (∀ r : Reg, regValue State.reset r = 0#32) ∧ Idle State.reset ∧
  State.reset.ctx.state = .closed ∧ State.reset.cc.result = .ok ∧
  State.reset.cc.wref = false ∧
  (∀ a i, readArr State.reset a i = Config.unspecifiedByte 0 a i) ∧
  ¬ segWellFormed State.reset ∧
  ∃ t u, exec .encode State.reset = .next t ∧ exec .decode t = .next u ∧
    u.cc.result = .eHlenLow

/-- Reset as an input (R200, R201, R202): at any time, a command in progress or not, every register
goes to its reset value, every array byte is unspecified again, and nothing is given to the link. That
the parameters and the pending inputs stay is the model's (log 18). -/
def Obligations.ResetInputAbandonsAll : Prop :=
  ∀ (s : State) (rest : List Input), s.env.inbox = .reset :: rest →
    ∃ t, step s = .next t ∧ (∀ r, regValue t r = 0#32) ∧ Idle t ∧ t.ctx.state = .closed ∧
      (∀ a i, readArr t a i = Config.unspecifiedByte (s.epoch + 1) a i) ∧
      t.cfg = s.cfg ∧ t.env.trace = s.env.trace ∧ t.env.inbox = rest ∧
      t.env.drawCount = s.env.drawCount ∧ t.env.txCount = s.env.txCount

/-- 93_implementation_defined.md U1: no instruction reads an array byte at or past its length
register. Two states that differ only in such bytes go, by any instruction, to two states that again
differ only in such bytes. -/
def Obligations.UnreadBytesDoNotMatter : Prop :=
  ∀ (i : Instr) (s t : State) (b o p : Memory), s.cfg.Legal →
    let s' : State := { s with buf.bytes := b, seg.opt := o, seg.pay := p }
    bufBytes s' = bufBytes s → optBytes s' = optBytes s → payBytes s' = payBytes s →
    exec i s = .next t →
    ∃ t', exec i s' = .next t' ∧
      t = { t' with buf.bytes := t.buf.bytes, seg.opt := t.seg.opt, seg.pay := t.seg.pay } ∧
      bufBytes t' = bufBytes t ∧ optBytes t' = optBytes t ∧ payBytes t' = payBytes t
end

