-- ==== Sys2Proof/Laws/Fields.lean ====
section
/-! SUPPORT. The small laws of the two word formats: which bits of an encoded word each field
reads. -/

namespace Sys2Proof

/-! ### Command words -/

theorem opcField_encodeC0 (c : Cmd) : opcField (encodeC0 c) = c.opcode := by
  cases c <;> decide

theorem c0Reserved_encodeC0 (c : Cmd) : c0Reserved (encodeC0 c) = 0#24 := by
  cases c <;> decide

theorem ofOpcode_opcode (c : Cmd) : Cmd.ofOpcode c.opcode = some c := by
  cases c <;> decide

theorem opcode_of_ofOpcode {o : BitVec 8} {c : Cmd} (h : Cmd.ofOpcode o = some c) :
    c.opcode = o := by
  simpa using List.find?_some h

theorem opcField_encodeCI (imm : Half) : opcField (encodeCI .csumAddw imm) = 0x03#8 := by
  ext i hi
  have : i = 0 ∨ i = 1 ∨ i = 2 ∨ i = 3 ∨ i = 4 ∨ i = 5 ∨ i = 6 ∨ i = 7 := by omega
  rcases this with rfl | rfl | rfl | rfl | rfl | rfl | rfl | rfl <;>
    simp [opcField, encodeCI, Cmd.opcode]

theorem ciReserved_encodeCI (imm : Half) : ciReserved (encodeCI .csumAddw imm) = 0#8 := by
  ext i hi
  have : i = 0 ∨ i = 1 ∨ i = 2 ∨ i = 3 ∨ i = 4 ∨ i = 5 ∨ i = 6 ∨ i = 7 := by omega
  rcases this with rfl | rfl | rfl | rfl | rfl | rfl | rfl | rfl <;>
    simp [ciReserved, encodeCI, Cmd.opcode]

theorem encodeCI_and_row (imm : Half) :
    encodeCI .csumAddw imm &&& 0xFF0000FF#32 = 0x00000003#32 := by
  ext i hi
  interval_cases i <;> simp [encodeCI, Cmd.opcode]

/-! ### Flags fields -/

/-- The header-length part of a flags field is outside every legal mask. -/
theorem hlPart_and_mask (hl : BitVec 4) {mask : Half} (hm : mask &&& 0xF000#16 = 0#16) :
    hl.setWidth 16 <<< 12 &&& mask = 0#16 := by
  have h : hl.setWidth 16 <<< 12 = hl.setWidth 16 <<< 12 &&& 0xF000#16 := by
    revert hl
    decide
  rw [h, BitVec.and_assoc, BitVec.and_comm 0xF000#16 mask, hm, BitVec.and_zero]

/-- The five named flags are inside every legal mask. -/
theorem kindFlags_and_mask (k : Kind) {mask : Half} (hm : mask &&& 0x001F#16 = 0x001F#16) :
    k.flags &&& mask = k.flags := by
  have h : k.flags = k.flags &&& 0x001F#16 := by cases k <;> decide
  rw [h, BitVec.and_assoc, BitVec.and_comm 0x001F#16 mask, hm]

/-- The control bits of a well-formed flags field are its kind's value (30_encoding.md R65, R69). -/
theorem ctrl_flagsField (hl : BitVec 4) (rsv : BitVec 7) (k : Kind) {mask : Half}
    (h1 : mask &&& 0xF000#16 = 0#16) (h2 : mask &&& 0x001F#16 = 0x001F#16)
    (hr : reservedClear mask rsv = true) : ctrl mask (flagsField hl rsv k) = k.flags := by
  have hr' : reservedAt rsv &&& mask = 0#16 := by simpa [reservedClear] using hr
  unfold ctrl flagsField
  have dist : ∀ a b : Half, (a ||| b) &&& mask = a &&& mask ||| b &&& mask := fun a b => by
    ext i hi
    simp [Bool.and_or_distrib_right]
  rw [dist, dist, hlPart_and_mask hl h1, hr', kindFlags_and_mask k h2]
  simp

theorem ofCtrl_flags (k : Kind) : Kind.ofCtrl k.flags = some k := by
  cases k <;> decide

theorem flags_of_ofCtrl {c : Half} {k : Kind} (h : Kind.ofCtrl c = some k) : k.flags = c := by
  simpa using List.find?_some h

end Sys2Proof
end

