-- ==== Sys2Proof/Laws/State.lean ====
section
/-! SUPPORT. One lemma for each field and each named update of State: what the update leaves and what
it writes. With these, no later proof unfolds a record update. A group of fields that an update does
not touch has one lemma for the whole group. -/

namespace Sys2Proof.Machine

open Sys2Proof

/-! ### complete -/

@[simp] theorem complete_cfg (c : Code) (s : State) : (complete c s).cfg = s.cfg := rfl
@[simp] theorem complete_laddr (c : Code) (s : State) : (complete c s).laddr = s.laddr := rfl
@[simp] theorem complete_ctx (c : Code) (s : State) : (complete c s).ctx = s.ctx := rfl
@[simp] theorem complete_seg (c : Code) (s : State) : (complete c s).seg = s.seg := rfl
@[simp] theorem complete_buf (c : Code) (s : State) : (complete c s).buf = s.buf := rfl
@[simp] theorem complete_chk (c : Code) (s : State) : (complete c s).chk = s.chk := rfl
@[simp] theorem complete_cc_busy (c : Code) (s : State) : (complete c s).cc.busy = false := rfl
@[simp] theorem complete_cc_wref (c : Code) (s : State) : (complete c s).cc.wref = s.cc.wref := rfl
@[simp] theorem complete_cc_result (c : Code) (s : State) : (complete c s).cc.result = c := rfl
@[simp] theorem complete_cc_ioerr (c : Code) (s : State) :
    (complete c s).cc.ioerr = s.cc.ioerr := rfl
@[simp] theorem complete_cc_count (c : Code) (s : State) :
    (complete c s).cc.count = s.cc.count := rfl
@[simp] theorem complete_hid_cur (c : Code) (s : State) : (complete c s).hid.cur = s.hid.cur := rfl
@[simp] theorem complete_hid_phase (c : Code) (s : State) : (complete c s).hid.phase = .idle := rfl
@[simp] theorem complete_hid_sendLen (c : Code) (s : State) :
    (complete c s).hid.sendLen = s.hid.sendLen := rfl
@[simp] theorem complete_epoch (c : Code) (s : State) : (complete c s).epoch = s.epoch := rfl
@[simp] theorem complete_env (c : Code) (s : State) : (complete c s).env = s.env := rfl

/-! ### done -/

@[simp] theorem done_cfg (n : Word) (s : State) : (done n s).cfg = s.cfg := rfl
@[simp] theorem done_laddr (n : Word) (s : State) : (done n s).laddr = s.laddr := rfl
@[simp] theorem done_ctx (n : Word) (s : State) : (done n s).ctx = s.ctx := rfl
@[simp] theorem done_seg (n : Word) (s : State) : (done n s).seg = s.seg := rfl
@[simp] theorem done_buf (n : Word) (s : State) : (done n s).buf = s.buf := rfl
@[simp] theorem done_chk (n : Word) (s : State) : (done n s).chk = s.chk := rfl
@[simp] theorem done_cc_busy (n : Word) (s : State) : (done n s).cc.busy = false := rfl
@[simp] theorem done_cc_wref (n : Word) (s : State) : (done n s).cc.wref = s.cc.wref := rfl
@[simp] theorem done_cc_result (n : Word) (s : State) : (done n s).cc.result = .ok := rfl
@[simp] theorem done_cc_ioerr (n : Word) (s : State) : (done n s).cc.ioerr = s.cc.ioerr := rfl
@[simp] theorem done_cc_count (n : Word) (s : State) : (done n s).cc.count = n := rfl
@[simp] theorem done_hid_cur (n : Word) (s : State) : (done n s).hid.cur = s.hid.cur := rfl
@[simp] theorem done_hid_phase (n : Word) (s : State) : (done n s).hid.phase = .idle := rfl
@[simp] theorem done_hid_sendLen (n : Word) (s : State) :
    (done n s).hid.sendLen = s.hid.sendLen := rfl
@[simp] theorem done_epoch (n : Word) (s : State) : (done n s).epoch = s.epoch := rfl
@[simp] theorem done_env (n : Word) (s : State) : (done n s).env = s.env := rfl

/-! ### raise -/

@[simp] theorem raise_cfg (c : Code) (e : Word) (s : State) :
    (raise c e s).cfg = s.cfg := by cases c <;> rfl
@[simp] theorem raise_laddr (c : Code) (e : Word) (s : State) :
    (raise c e s).laddr = s.laddr := by cases c <;> rfl
@[simp] theorem raise_ctx (c : Code) (e : Word) (s : State) :
    (raise c e s).ctx = s.ctx := by cases c <;> rfl
@[simp] theorem raise_seg (c : Code) (e : Word) (s : State) :
    (raise c e s).seg = s.seg := by cases c <;> rfl
@[simp] theorem raise_buf (c : Code) (e : Word) (s : State) :
    (raise c e s).buf = s.buf := by cases c <;> rfl
@[simp] theorem raise_chk (c : Code) (e : Word) (s : State) :
    (raise c e s).chk = s.chk := by cases c <;> rfl
@[simp] theorem raise_cc_busy (c : Code) (e : Word) (s : State) :
    (raise c e s).cc.busy = false := by cases c <;> rfl
@[simp] theorem raise_cc_wref (c : Code) (e : Word) (s : State) :
    (raise c e s).cc.wref = s.cc.wref := by cases c <;> rfl
@[simp] theorem raise_cc_result (c : Code) (e : Word) (s : State) :
    (raise c e s).cc.result = c := by cases c <;> rfl
@[simp] theorem raise_cc_ioerr (c : Code) (e : Word) (s : State) :
    (raise c e s).cc.ioerr = if c = .eIo then e else s.cc.ioerr := by cases c <;> rfl
@[simp] theorem raise_cc_count (c : Code) (e : Word) (s : State) :
    (raise c e s).cc.count = s.cc.count := by cases c <;> rfl
@[simp] theorem raise_hid_cur (c : Code) (e : Word) (s : State) :
    (raise c e s).hid.cur = s.hid.cur := by cases c <;> rfl
@[simp] theorem raise_hid_phase (c : Code) (e : Word) (s : State) :
    (raise c e s).hid.phase = .idle := by cases c <;> rfl
@[simp] theorem raise_hid_sendLen (c : Code) (e : Word) (s : State) :
    (raise c e s).hid.sendLen = s.hid.sendLen := by cases c <;> rfl
@[simp] theorem raise_epoch (c : Code) (e : Word) (s : State) :
    (raise c e s).epoch = s.epoch := by cases c <;> rfl
@[simp] theorem raise_env (c : Code) (e : Word) (s : State) :
    (raise c e s).env = s.env := by cases c <;> rfl

/-! ### refuse -/

@[simp] theorem refuse_cfg (s : State) : (refuse s).cfg = s.cfg := rfl
@[simp] theorem refuse_laddr (s : State) : (refuse s).laddr = s.laddr := rfl
@[simp] theorem refuse_ctx (s : State) : (refuse s).ctx = s.ctx := rfl
@[simp] theorem refuse_seg (s : State) : (refuse s).seg = s.seg := rfl
@[simp] theorem refuse_buf (s : State) : (refuse s).buf = s.buf := rfl
@[simp] theorem refuse_chk (s : State) : (refuse s).chk = s.chk := rfl
@[simp] theorem refuse_cc_busy (s : State) : (refuse s).cc.busy = s.cc.busy := rfl
@[simp] theorem refuse_cc_wref (s : State) : (refuse s).cc.wref = true := rfl
@[simp] theorem refuse_cc_result (s : State) : (refuse s).cc.result = s.cc.result := rfl
@[simp] theorem refuse_cc_ioerr (s : State) : (refuse s).cc.ioerr = s.cc.ioerr := rfl
@[simp] theorem refuse_cc_count (s : State) : (refuse s).cc.count = s.cc.count := rfl
@[simp] theorem refuse_hid (s : State) : (refuse s).hid = s.hid := rfl
@[simp] theorem refuse_epoch (s : State) : (refuse s).epoch = s.epoch := rfl
@[simp] theorem refuse_env_inbox (s : State) : (refuse s).env.inbox = s.env.inbox := rfl
@[simp] theorem refuse_env_draws (s : State) : (refuse s).env.draws = s.env.draws := rfl
@[simp] theorem refuse_env_drawCount (s : State) : (refuse s).env.drawCount = s.env.drawCount := rfl
@[simp] theorem refuse_env_txAnswers (s : State) : (refuse s).env.txAnswers = s.env.txAnswers := rfl
@[simp] theorem refuse_env_txCount (s : State) : (refuse s).env.txCount = s.env.txCount := rfl
@[simp] theorem refuse_env_trace (s : State) : (refuse s).env.trace = s.env.trace := rfl
@[simp] theorem refuse_env_reply (s : State) : (refuse s).env.reply = .refused := rfl

/-! ### answer -/

@[simp] theorem answer_cfg (r : Reply) (s : State) : (answer r s).cfg = s.cfg := rfl
@[simp] theorem answer_laddr (r : Reply) (s : State) : (answer r s).laddr = s.laddr := rfl
@[simp] theorem answer_ctx (r : Reply) (s : State) : (answer r s).ctx = s.ctx := rfl
@[simp] theorem answer_seg (r : Reply) (s : State) : (answer r s).seg = s.seg := rfl
@[simp] theorem answer_buf (r : Reply) (s : State) : (answer r s).buf = s.buf := rfl
@[simp] theorem answer_chk (r : Reply) (s : State) : (answer r s).chk = s.chk := rfl
@[simp] theorem answer_cc (r : Reply) (s : State) : (answer r s).cc = s.cc := rfl
@[simp] theorem answer_hid (r : Reply) (s : State) : (answer r s).hid = s.hid := rfl
@[simp] theorem answer_epoch (r : Reply) (s : State) : (answer r s).epoch = s.epoch := rfl
@[simp] theorem answer_env_inbox (r : Reply) (s : State) :
    (answer r s).env.inbox = s.env.inbox := rfl
@[simp] theorem answer_env_draws (r : Reply) (s : State) :
    (answer r s).env.draws = s.env.draws := rfl
@[simp] theorem answer_env_drawCount (r : Reply) (s : State) :
    (answer r s).env.drawCount = s.env.drawCount := rfl
@[simp] theorem answer_env_txAnswers (r : Reply) (s : State) :
    (answer r s).env.txAnswers = s.env.txAnswers := rfl
@[simp] theorem answer_env_txCount (r : Reply) (s : State) :
    (answer r s).env.txCount = s.env.txCount := rfl
@[simp] theorem answer_env_trace (r : Reply) (s : State) :
    (answer r s).env.trace = s.env.trace := rfl
@[simp] theorem answer_env_reply (r : Reply) (s : State) : (answer r s).env.reply = r := rfl

/-! ### setConn -/

@[simp] theorem setConn_cfg (c : ConnState) (s : State) : (setConn c s).cfg = s.cfg := rfl
@[simp] theorem setConn_laddr (c : ConnState) (s : State) : (setConn c s).laddr = s.laddr := rfl
@[simp] theorem setConn_ctx_state (c : ConnState) (s : State) : (setConn c s).ctx.state = c := rfl
@[simp] theorem setConn_ctx_paddr (c : ConnState) (s : State) :
    (setConn c s).ctx.paddr = s.ctx.paddr := rfl
@[simp] theorem setConn_ctx_pport (c : ConnState) (s : State) :
    (setConn c s).ctx.pport = s.ctx.pport := rfl
@[simp] theorem setConn_ctx_lport (c : ConnState) (s : State) :
    (setConn c s).ctx.lport = s.ctx.lport := rfl
@[simp] theorem setConn_ctx_seq (c : ConnState) (s : State) :
    (setConn c s).ctx.seq = s.ctx.seq := rfl
@[simp] theorem setConn_ctx_ack (c : ConnState) (s : State) :
    (setConn c s).ctx.ack = s.ctx.ack := rfl
@[simp] theorem setConn_seg (c : ConnState) (s : State) : (setConn c s).seg = s.seg := rfl
@[simp] theorem setConn_buf (c : ConnState) (s : State) : (setConn c s).buf = s.buf := rfl
@[simp] theorem setConn_chk (c : ConnState) (s : State) : (setConn c s).chk = s.chk := rfl
@[simp] theorem setConn_cc (c : ConnState) (s : State) : (setConn c s).cc = s.cc := rfl
@[simp] theorem setConn_hid (c : ConnState) (s : State) : (setConn c s).hid = s.hid := rfl
@[simp] theorem setConn_epoch (c : ConnState) (s : State) : (setConn c s).epoch = s.epoch := rfl
@[simp] theorem setConn_env (c : ConnState) (s : State) : (setConn c s).env = s.env := rfl

/-! ### setCounters -/

@[simp] theorem setCounters_cfg (a b : Word) (s : State) : (setCounters a b s).cfg = s.cfg := rfl
@[simp] theorem setCounters_laddr (a b : Word) (s : State) :
    (setCounters a b s).laddr = s.laddr := rfl
@[simp] theorem setCounters_ctx_state (a b : Word) (s : State) :
    (setCounters a b s).ctx.state = s.ctx.state := rfl
@[simp] theorem setCounters_ctx_paddr (a b : Word) (s : State) :
    (setCounters a b s).ctx.paddr = s.ctx.paddr := rfl
@[simp] theorem setCounters_ctx_pport (a b : Word) (s : State) :
    (setCounters a b s).ctx.pport = s.ctx.pport := rfl
@[simp] theorem setCounters_ctx_lport (a b : Word) (s : State) :
    (setCounters a b s).ctx.lport = s.ctx.lport := rfl
@[simp] theorem setCounters_ctx_seq (a b : Word) (s : State) :
    (setCounters a b s).ctx.seq = a := rfl
@[simp] theorem setCounters_ctx_ack (a b : Word) (s : State) :
    (setCounters a b s).ctx.ack = b := rfl
@[simp] theorem setCounters_seg (a b : Word) (s : State) : (setCounters a b s).seg = s.seg := rfl
@[simp] theorem setCounters_buf (a b : Word) (s : State) : (setCounters a b s).buf = s.buf := rfl
@[simp] theorem setCounters_chk (a b : Word) (s : State) : (setCounters a b s).chk = s.chk := rfl
@[simp] theorem setCounters_cc (a b : Word) (s : State) : (setCounters a b s).cc = s.cc := rfl
@[simp] theorem setCounters_hid (a b : Word) (s : State) : (setCounters a b s).hid = s.hid := rfl
@[simp] theorem setCounters_epoch (a b : Word) (s : State) :
    (setCounters a b s).epoch = s.epoch := rfl
@[simp] theorem setCounters_env (a b : Word) (s : State) : (setCounters a b s).env = s.env := rfl

/-! ### setPeerPort -/

@[simp] theorem setPeerPort_cfg (p : Half) (s : State) : (setPeerPort p s).cfg = s.cfg := rfl
@[simp] theorem setPeerPort_laddr (p : Half) (s : State) : (setPeerPort p s).laddr = s.laddr := rfl
@[simp] theorem setPeerPort_ctx_state (p : Half) (s : State) :
    (setPeerPort p s).ctx.state = s.ctx.state := rfl
@[simp] theorem setPeerPort_ctx_paddr (p : Half) (s : State) :
    (setPeerPort p s).ctx.paddr = s.ctx.paddr := rfl
@[simp] theorem setPeerPort_ctx_pport (p : Half) (s : State) :
    (setPeerPort p s).ctx.pport = p := rfl
@[simp] theorem setPeerPort_ctx_lport (p : Half) (s : State) :
    (setPeerPort p s).ctx.lport = s.ctx.lport := rfl
@[simp] theorem setPeerPort_ctx_seq (p : Half) (s : State) :
    (setPeerPort p s).ctx.seq = s.ctx.seq := rfl
@[simp] theorem setPeerPort_ctx_ack (p : Half) (s : State) :
    (setPeerPort p s).ctx.ack = s.ctx.ack := rfl
@[simp] theorem setPeerPort_seg (p : Half) (s : State) : (setPeerPort p s).seg = s.seg := rfl
@[simp] theorem setPeerPort_buf (p : Half) (s : State) : (setPeerPort p s).buf = s.buf := rfl
@[simp] theorem setPeerPort_chk (p : Half) (s : State) : (setPeerPort p s).chk = s.chk := rfl
@[simp] theorem setPeerPort_cc (p : Half) (s : State) : (setPeerPort p s).cc = s.cc := rfl
@[simp] theorem setPeerPort_hid (p : Half) (s : State) : (setPeerPort p s).hid = s.hid := rfl
@[simp] theorem setPeerPort_epoch (p : Half) (s : State) : (setPeerPort p s).epoch = s.epoch := rfl
@[simp] theorem setPeerPort_env (p : Half) (s : State) : (setPeerPort p s).env = s.env := rfl

/-! ### takeDraw -/

@[simp] theorem takeDraw_cfg (s : State) : (takeDraw s).cfg = s.cfg := rfl
@[simp] theorem takeDraw_laddr (s : State) : (takeDraw s).laddr = s.laddr := rfl
@[simp] theorem takeDraw_ctx (s : State) : (takeDraw s).ctx = s.ctx := rfl
@[simp] theorem takeDraw_seg (s : State) : (takeDraw s).seg = s.seg := rfl
@[simp] theorem takeDraw_buf (s : State) : (takeDraw s).buf = s.buf := rfl
@[simp] theorem takeDraw_chk (s : State) : (takeDraw s).chk = s.chk := rfl
@[simp] theorem takeDraw_cc (s : State) : (takeDraw s).cc = s.cc := rfl
@[simp] theorem takeDraw_hid (s : State) : (takeDraw s).hid = s.hid := rfl
@[simp] theorem takeDraw_epoch (s : State) : (takeDraw s).epoch = s.epoch := rfl
@[simp] theorem takeDraw_env_inbox (s : State) : (takeDraw s).env.inbox = s.env.inbox := rfl
@[simp] theorem takeDraw_env_draws (s : State) : (takeDraw s).env.draws = s.env.draws.tail := rfl
@[simp] theorem takeDraw_env_drawCount (s : State) :
    (takeDraw s).env.drawCount = s.env.drawCount + 1 := rfl
@[simp] theorem takeDraw_env_txAnswers (s : State) :
    (takeDraw s).env.txAnswers = s.env.txAnswers := rfl
@[simp] theorem takeDraw_env_txCount (s : State) : (takeDraw s).env.txCount = s.env.txCount := rfl
@[simp] theorem takeDraw_env_trace (s : State) : (takeDraw s).env.trace = s.env.trace := rfl
@[simp] theorem takeDraw_env_reply (s : State) : (takeDraw s).env.reply = s.env.reply := rfl

/-! ### linkTx -/

@[simp] theorem linkTx_cfg (B : List Byte) (s : State) : (linkTx B s).cfg = s.cfg := rfl
@[simp] theorem linkTx_laddr (B : List Byte) (s : State) : (linkTx B s).laddr = s.laddr := rfl
@[simp] theorem linkTx_ctx (B : List Byte) (s : State) : (linkTx B s).ctx = s.ctx := rfl
@[simp] theorem linkTx_seg (B : List Byte) (s : State) : (linkTx B s).seg = s.seg := rfl
@[simp] theorem linkTx_buf (B : List Byte) (s : State) : (linkTx B s).buf = s.buf := rfl
@[simp] theorem linkTx_chk (B : List Byte) (s : State) : (linkTx B s).chk = s.chk := rfl
@[simp] theorem linkTx_cc (B : List Byte) (s : State) : (linkTx B s).cc = s.cc := rfl
@[simp] theorem linkTx_hid (B : List Byte) (s : State) : (linkTx B s).hid = s.hid := rfl
@[simp] theorem linkTx_epoch (B : List Byte) (s : State) : (linkTx B s).epoch = s.epoch := rfl
@[simp] theorem linkTx_env_inbox (B : List Byte) (s : State) :
    (linkTx B s).env.inbox = s.env.inbox := rfl
@[simp] theorem linkTx_env_draws (B : List Byte) (s : State) :
    (linkTx B s).env.draws = s.env.draws := rfl
@[simp] theorem linkTx_env_drawCount (B : List Byte) (s : State) :
    (linkTx B s).env.drawCount = s.env.drawCount := rfl
@[simp] theorem linkTx_env_txAnswers (B : List Byte) (s : State) :
    (linkTx B s).env.txAnswers = s.env.txAnswers.tail := rfl
@[simp] theorem linkTx_env_txCount (B : List Byte) (s : State) :
    (linkTx B s).env.txCount = s.env.txCount + 1 := rfl
@[simp] theorem linkTx_env_trace (B : List Byte) (s : State) :
    (linkTx B s).env.trace = s.env.trace ++ [.tx B (nextAnswer s)] := rfl
@[simp] theorem linkTx_env_reply (B : List Byte) (s : State) :
    (linkTx B s).env.reply = s.env.reply := rfl

/-! ### enterWait -/

@[simp] theorem enterWait_cfg (c : Cmd) (s : State) : (enterWait c s).cfg = s.cfg := rfl
@[simp] theorem enterWait_laddr (c : Cmd) (s : State) : (enterWait c s).laddr = s.laddr := rfl
@[simp] theorem enterWait_ctx (c : Cmd) (s : State) : (enterWait c s).ctx = s.ctx := rfl
@[simp] theorem enterWait_seg (c : Cmd) (s : State) : (enterWait c s).seg = s.seg := rfl
@[simp] theorem enterWait_buf (c : Cmd) (s : State) : (enterWait c s).buf = s.buf := rfl
@[simp] theorem enterWait_chk (c : Cmd) (s : State) : (enterWait c s).chk = s.chk := rfl
@[simp] theorem enterWait_cc_busy (c : Cmd) (s : State) : (enterWait c s).cc.busy = true := rfl
@[simp] theorem enterWait_cc_wref (c : Cmd) (s : State) : (enterWait c s).cc.wref = s.cc.wref := rfl
@[simp] theorem enterWait_cc_result (c : Cmd) (s : State) :
    (enterWait c s).cc.result = s.cc.result := rfl
@[simp] theorem enterWait_cc_ioerr (c : Cmd) (s : State) :
    (enterWait c s).cc.ioerr = s.cc.ioerr := rfl
@[simp] theorem enterWait_cc_count (c : Cmd) (s : State) :
    (enterWait c s).cc.count = s.cc.count := rfl
@[simp] theorem enterWait_hid_cur (c : Cmd) (s : State) : (enterWait c s).hid.cur = c := rfl
@[simp] theorem enterWait_hid_phase (c : Cmd) (s : State) :
    (enterWait c s).hid.phase = .rxWait := rfl
@[simp] theorem enterWait_hid_sendLen (c : Cmd) (s : State) :
    (enterWait c s).hid.sendLen = s.hid.sendLen := rfl
@[simp] theorem enterWait_epoch (c : Cmd) (s : State) : (enterWait c s).epoch = s.epoch := rfl
@[simp] theorem enterWait_env (c : Cmd) (s : State) : (enterWait c s).env = s.env := rfl

/-! ### sampleLen -/

@[simp] theorem sampleLen_cfg (s : State) : (sampleLen s).cfg = s.cfg := rfl
@[simp] theorem sampleLen_laddr (s : State) : (sampleLen s).laddr = s.laddr := rfl
@[simp] theorem sampleLen_ctx (s : State) : (sampleLen s).ctx = s.ctx := rfl
@[simp] theorem sampleLen_seg (s : State) : (sampleLen s).seg = s.seg := rfl
@[simp] theorem sampleLen_buf (s : State) : (sampleLen s).buf = s.buf := rfl
@[simp] theorem sampleLen_chk (s : State) : (sampleLen s).chk = s.chk := rfl
@[simp] theorem sampleLen_cc (s : State) : (sampleLen s).cc = s.cc := rfl
@[simp] theorem sampleLen_hid_cur (s : State) : (sampleLen s).hid.cur = s.hid.cur := rfl
@[simp] theorem sampleLen_hid_phase (s : State) : (sampleLen s).hid.phase = s.hid.phase := rfl
@[simp] theorem sampleLen_hid_sendLen (s : State) : (sampleLen s).hid.sendLen = s.seg.paylen := rfl
@[simp] theorem sampleLen_epoch (s : State) : (sampleLen s).epoch = s.epoch := rfl
@[simp] theorem sampleLen_env (s : State) : (sampleLen s).env = s.env := rfl

/-! ### takeEvent -/

@[simp] theorem takeEvent_cfg (ev : LinkEvent) (s : State) : (takeEvent ev s).cfg = s.cfg := rfl
@[simp] theorem takeEvent_laddr (ev : LinkEvent) (s : State) :
    (takeEvent ev s).laddr = s.laddr := rfl
@[simp] theorem takeEvent_ctx (ev : LinkEvent) (s : State) : (takeEvent ev s).ctx = s.ctx := rfl
@[simp] theorem takeEvent_seg (ev : LinkEvent) (s : State) : (takeEvent ev s).seg = s.seg := rfl
@[simp] theorem takeEvent_buf (ev : LinkEvent) (s : State) : (takeEvent ev s).buf = s.buf := rfl
@[simp] theorem takeEvent_chk (ev : LinkEvent) (s : State) : (takeEvent ev s).chk = s.chk := rfl
@[simp] theorem takeEvent_cc (ev : LinkEvent) (s : State) : (takeEvent ev s).cc = s.cc := rfl
@[simp] theorem takeEvent_hid (ev : LinkEvent) (s : State) : (takeEvent ev s).hid = s.hid := rfl
@[simp] theorem takeEvent_epoch (ev : LinkEvent) (s : State) :
    (takeEvent ev s).epoch = s.epoch := rfl
@[simp] theorem takeEvent_env_inbox (ev : LinkEvent) (s : State) :
    (takeEvent ev s).env.inbox = s.env.inbox := rfl
@[simp] theorem takeEvent_env_draws (ev : LinkEvent) (s : State) :
    (takeEvent ev s).env.draws = s.env.draws := rfl
@[simp] theorem takeEvent_env_drawCount (ev : LinkEvent) (s : State) :
    (takeEvent ev s).env.drawCount = s.env.drawCount := rfl
@[simp] theorem takeEvent_env_txAnswers (ev : LinkEvent) (s : State) :
    (takeEvent ev s).env.txAnswers = s.env.txAnswers := rfl
@[simp] theorem takeEvent_env_txCount (ev : LinkEvent) (s : State) :
    (takeEvent ev s).env.txCount = s.env.txCount := rfl
@[simp] theorem takeEvent_env_trace (ev : LinkEvent) (s : State) :
    (takeEvent ev s).env.trace = s.env.trace ++ [.rx ev] := rfl
@[simp] theorem takeEvent_env_reply (ev : LinkEvent) (s : State) :
    (takeEvent ev s).env.reply = s.env.reply := rfl

/-! ### loadDatagram -/

@[simp] theorem loadDatagram_cfg (B : List Byte) (s : State) : (loadDatagram B s).cfg = s.cfg := rfl
@[simp] theorem loadDatagram_laddr (B : List Byte) (s : State) :
    (loadDatagram B s).laddr = s.laddr := rfl
@[simp] theorem loadDatagram_ctx (B : List Byte) (s : State) : (loadDatagram B s).ctx = s.ctx := rfl
@[simp] theorem loadDatagram_seg (B : List Byte) (s : State) : (loadDatagram B s).seg = s.seg := rfl
@[simp] theorem loadDatagram_buf_len (B : List Byte) (s : State) :
    (loadDatagram B s).buf.len = BitVec.ofNat 16 (B.take s.cfg.maxSeg).length := rfl
@[simp] theorem loadDatagram_buf_bytes (B : List Byte) (s : State) :
    (loadDatagram B s).buf.bytes = Memory.writeBytes s.buf.bytes 0 (B.take s.cfg.maxSeg) := rfl
@[simp] theorem loadDatagram_chk (B : List Byte) (s : State) : (loadDatagram B s).chk = s.chk := rfl
@[simp] theorem loadDatagram_cc (B : List Byte) (s : State) : (loadDatagram B s).cc = s.cc := rfl
@[simp] theorem loadDatagram_hid (B : List Byte) (s : State) : (loadDatagram B s).hid = s.hid := rfl
@[simp] theorem loadDatagram_epoch (B : List Byte) (s : State) :
    (loadDatagram B s).epoch = s.epoch := rfl
@[simp] theorem loadDatagram_env (B : List Byte) (s : State) : (loadDatagram B s).env = s.env := rfl

/-! ### storeSegment -/

@[simp] theorem storeSegment_cfg (T : Segment) (s : State) : (storeSegment T s).cfg = s.cfg := rfl
@[simp] theorem storeSegment_laddr (T : Segment) (s : State) :
    (storeSegment T s).laddr = s.laddr := rfl
@[simp] theorem storeSegment_ctx (T : Segment) (s : State) : (storeSegment T s).ctx = s.ctx := rfl
@[simp] theorem storeSegment_seg_hdr (T : Segment) (s : State) :
    (storeSegment T s).seg.hdr = T.hdr := rfl
@[simp] theorem storeSegment_seg_optlen (T : Segment) (s : State) :
    (storeSegment T s).seg.optlen = BitVec.ofNat 6 T.opt.length := rfl
@[simp] theorem storeSegment_seg_opt (T : Segment) (s : State) :
    (storeSegment T s).seg.opt = Memory.writeBytes s.seg.opt 0 T.opt := rfl
@[simp] theorem storeSegment_seg_paylen (T : Segment) (s : State) :
    (storeSegment T s).seg.paylen = BitVec.ofNat 16 T.pay.length := rfl
@[simp] theorem storeSegment_seg_pay (T : Segment) (s : State) :
    (storeSegment T s).seg.pay = Memory.writeBytes s.seg.pay 0 T.pay := rfl
@[simp] theorem storeSegment_buf (T : Segment) (s : State) : (storeSegment T s).buf = s.buf := rfl
@[simp] theorem storeSegment_chk (T : Segment) (s : State) : (storeSegment T s).chk = s.chk := rfl
@[simp] theorem storeSegment_cc (T : Segment) (s : State) : (storeSegment T s).cc = s.cc := rfl
@[simp] theorem storeSegment_hid (T : Segment) (s : State) : (storeSegment T s).hid = s.hid := rfl
@[simp] theorem storeSegment_epoch (T : Segment) (s : State) :
    (storeSegment T s).epoch = s.epoch := rfl
@[simp] theorem storeSegment_env (T : Segment) (s : State) : (storeSegment T s).env = s.env := rfl

/-! ### storeBuf -/

@[simp] theorem storeBuf_cfg (B : List Byte) (s : State) : (storeBuf B s).cfg = s.cfg := rfl
@[simp] theorem storeBuf_laddr (B : List Byte) (s : State) : (storeBuf B s).laddr = s.laddr := rfl
@[simp] theorem storeBuf_ctx (B : List Byte) (s : State) : (storeBuf B s).ctx = s.ctx := rfl
@[simp] theorem storeBuf_seg (B : List Byte) (s : State) : (storeBuf B s).seg = s.seg := rfl
@[simp] theorem storeBuf_buf_len (B : List Byte) (s : State) :
    (storeBuf B s).buf.len = BitVec.ofNat 16 B.length := rfl
@[simp] theorem storeBuf_buf_bytes (B : List Byte) (s : State) :
    (storeBuf B s).buf.bytes = Memory.writeBytes s.buf.bytes 0 B := rfl
@[simp] theorem storeBuf_chk (B : List Byte) (s : State) : (storeBuf B s).chk = s.chk := rfl
@[simp] theorem storeBuf_cc (B : List Byte) (s : State) : (storeBuf B s).cc = s.cc := rfl
@[simp] theorem storeBuf_hid (B : List Byte) (s : State) : (storeBuf B s).hid = s.hid := rfl
@[simp] theorem storeBuf_epoch (B : List Byte) (s : State) : (storeBuf B s).epoch = s.epoch := rfl
@[simp] theorem storeBuf_env (B : List Byte) (s : State) : (storeBuf B s).env = s.env := rfl

/-! ### popInput -/

@[simp] theorem popInput_cfg (s : State) : (popInput s).cfg = s.cfg := rfl
@[simp] theorem popInput_laddr (s : State) : (popInput s).laddr = s.laddr := rfl
@[simp] theorem popInput_ctx (s : State) : (popInput s).ctx = s.ctx := rfl
@[simp] theorem popInput_seg (s : State) : (popInput s).seg = s.seg := rfl
@[simp] theorem popInput_buf (s : State) : (popInput s).buf = s.buf := rfl
@[simp] theorem popInput_chk (s : State) : (popInput s).chk = s.chk := rfl
@[simp] theorem popInput_cc (s : State) : (popInput s).cc = s.cc := rfl
@[simp] theorem popInput_hid (s : State) : (popInput s).hid = s.hid := rfl
@[simp] theorem popInput_epoch (s : State) : (popInput s).epoch = s.epoch := rfl
@[simp] theorem popInput_env_inbox (s : State) : (popInput s).env.inbox = s.env.inbox.tail := rfl
@[simp] theorem popInput_env_draws (s : State) : (popInput s).env.draws = s.env.draws := rfl
@[simp] theorem popInput_env_drawCount (s : State) :
    (popInput s).env.drawCount = s.env.drawCount := rfl
@[simp] theorem popInput_env_txAnswers (s : State) :
    (popInput s).env.txAnswers = s.env.txAnswers := rfl
@[simp] theorem popInput_env_txCount (s : State) : (popInput s).env.txCount = s.env.txCount := rfl
@[simp] theorem popInput_env_trace (s : State) : (popInput s).env.trace = s.env.trace := rfl
@[simp] theorem popInput_env_reply (s : State) : (popInput s).env.reply = s.env.reply := rfl

/-! ### pushInput -/

@[simp] theorem pushInput_cfg (i : Input) (s : State) : (pushInput i s).cfg = s.cfg := rfl
@[simp] theorem pushInput_laddr (i : Input) (s : State) : (pushInput i s).laddr = s.laddr := rfl
@[simp] theorem pushInput_ctx (i : Input) (s : State) : (pushInput i s).ctx = s.ctx := rfl
@[simp] theorem pushInput_seg (i : Input) (s : State) : (pushInput i s).seg = s.seg := rfl
@[simp] theorem pushInput_buf (i : Input) (s : State) : (pushInput i s).buf = s.buf := rfl
@[simp] theorem pushInput_chk (i : Input) (s : State) : (pushInput i s).chk = s.chk := rfl
@[simp] theorem pushInput_cc (i : Input) (s : State) : (pushInput i s).cc = s.cc := rfl
@[simp] theorem pushInput_hid (i : Input) (s : State) : (pushInput i s).hid = s.hid := rfl
@[simp] theorem pushInput_epoch (i : Input) (s : State) : (pushInput i s).epoch = s.epoch := rfl
@[simp] theorem pushInput_env_inbox (i : Input) (s : State) :
    (pushInput i s).env.inbox = i :: s.env.inbox := rfl
@[simp] theorem pushInput_env_draws (i : Input) (s : State) :
    (pushInput i s).env.draws = s.env.draws := rfl
@[simp] theorem pushInput_env_drawCount (i : Input) (s : State) :
    (pushInput i s).env.drawCount = s.env.drawCount := rfl
@[simp] theorem pushInput_env_txAnswers (i : Input) (s : State) :
    (pushInput i s).env.txAnswers = s.env.txAnswers := rfl
@[simp] theorem pushInput_env_txCount (i : Input) (s : State) :
    (pushInput i s).env.txCount = s.env.txCount := rfl
@[simp] theorem pushInput_env_trace (i : Input) (s : State) :
    (pushInput i s).env.trace = s.env.trace := rfl
@[simp] theorem pushInput_env_reply (i : Input) (s : State) :
    (pushInput i s).env.reply = s.env.reply := rfl

/-! ### setReg: a register write touches no hidden state and nothing outside the register file -/

@[simp] theorem setReg_cfg (s : State) (w : Word) (r : Reg) : (setReg s w r).cfg = s.cfg := by
  cases r <;> rfl
@[simp] theorem setReg_cc (s : State) (w : Word) (r : Reg) : (setReg s w r).cc = s.cc := by
  cases r <;> rfl
@[simp] theorem setReg_hid (s : State) (w : Word) (r : Reg) : (setReg s w r).hid = s.hid := by
  cases r <;> rfl
@[simp] theorem setReg_env (s : State) (w : Word) (r : Reg) : (setReg s w r).env = s.env := by
  cases r <;> rfl
@[simp] theorem setReg_epoch (s : State) (w : Word) (r : Reg) : (setReg s w r).epoch = s.epoch := by
  cases r <;> rfl
@[simp] theorem setReg_ctx_state (s : State) (w : Word) (r : Reg) :
    (setReg s w r).ctx.state = s.ctx.state := by
  cases r <;> rfl
@[simp] theorem setReg_arrayOf (s : State) (w : Word) (r : Reg) (a : Arr) :
    arrayOf (setReg s w r) a = arrayOf s a := by
  cases r <;> cases a <;> rfl

/-! ### writeArr: an array write touches one array and nothing else -/

@[simp] theorem writeArr_cfg (s : State) (a : Arr) (i : Nat) (b : Byte) :
    (writeArr s a i b).cfg = s.cfg := by
  cases a <;> rfl
@[simp] theorem writeArr_laddr (s : State) (a : Arr) (i : Nat) (b : Byte) :
    (writeArr s a i b).laddr = s.laddr := by
  cases a <;> rfl
@[simp] theorem writeArr_ctx (s : State) (a : Arr) (i : Nat) (b : Byte) :
    (writeArr s a i b).ctx = s.ctx := by
  cases a <;> rfl
@[simp] theorem writeArr_chk (s : State) (a : Arr) (i : Nat) (b : Byte) :
    (writeArr s a i b).chk = s.chk := by
  cases a <;> rfl
@[simp] theorem writeArr_cc (s : State) (a : Arr) (i : Nat) (b : Byte) :
    (writeArr s a i b).cc = s.cc := by
  cases a <;> rfl
@[simp] theorem writeArr_hid (s : State) (a : Arr) (i : Nat) (b : Byte) :
    (writeArr s a i b).hid = s.hid := by
  cases a <;> rfl
@[simp] theorem writeArr_epoch (s : State) (a : Arr) (i : Nat) (b : Byte) :
    (writeArr s a i b).epoch = s.epoch := by
  cases a <;> rfl
@[simp] theorem writeArr_env (s : State) (a : Arr) (i : Nat) (b : Byte) :
    (writeArr s a i b).env = s.env := by
  cases a <;> rfl
@[simp] theorem writeArr_seg_hdr (s : State) (a : Arr) (i : Nat) (b : Byte) :
    (writeArr s a i b).seg.hdr = s.seg.hdr := by
  cases a <;> rfl
@[simp] theorem writeArr_seg_optlen (s : State) (a : Arr) (i : Nat) (b : Byte) :
    (writeArr s a i b).seg.optlen = s.seg.optlen := by
  cases a <;> rfl
@[simp] theorem writeArr_seg_paylen (s : State) (a : Arr) (i : Nat) (b : Byte) :
    (writeArr s a i b).seg.paylen = s.seg.paylen := by
  cases a <;> rfl
@[simp] theorem writeArr_buf_len (s : State) (a : Arr) (i : Nat) (b : Byte) :
    (writeArr s a i b).buf.len = s.buf.len := by
  cases a <;> rfl

end Sys2Proof.Machine
end

