-- ==== Sys2Proof/Laws/Memory.lean ====
section
/-! SUPPORT. The laws of the byte arrays: a read after a write, the canonical form and the capacity
kept by every write, and the same for byte sequences. -/

namespace Sys2Proof.Machine

open Sys2Proof

/-! ### One byte -/

theorem Memory.read_write_same (m : Memory) (i : Nat) (b : Byte) :
    Memory.read (Memory.write m i b) i = some b := by
  induction m with
  | nil => simp [Memory.write, Memory.read]
  | cons c rest ih =>
    obtain ⟨j, d⟩ := c
    simp only [Memory.write]
    split_ifs with h1 h2
    · simp [Memory.read]
    · simp [Memory.read]
    · simp [Memory.read, Ne.symm h2, ih]

theorem Memory.read_write_other (m : Memory) (i k : Nat) (b : Byte) (h : k ≠ i) :
    Memory.read (Memory.write m i b) k = Memory.read m k := by
  induction m with
  | nil => simp [Memory.write, Memory.read, Ne.symm h]
  | cons c rest ih =>
    obtain ⟨j, d⟩ := c
    simp only [Memory.write]
    split_ifs with h1 h2
    · simp [Memory.read, Ne.symm h]
    · subst h2; simp [Memory.read, Ne.symm h]
    · simp [Memory.read, ih]

/-- Where a listed index of a written array comes from. -/
theorem Memory.mem_write {m : Memory} {i : Nat} {b : Byte} {c : Host.Cell}
    (h : c ∈ Memory.write m i b) : c = (i, b) ∨ c ∈ m := by
  induction m with
  | nil => simp_all [Memory.write]
  | cons d rest ih =>
    obtain ⟨j, e⟩ := d
    simp only [Memory.write] at h
    split_ifs at h with h1 h2
    · simpa using h
    · subst h2
      rcases List.mem_cons.1 h with h | h
      · exact .inl h
      · exact .inr (List.mem_cons_of_mem _ h)
    · rcases List.mem_cons.1 h with h | h
      · exact .inr (by simp [h])
      · exact (ih h).imp id (List.mem_cons_of_mem _)

theorem Memory.wf_write (m : Memory) (i : Nat) (b : Byte) (h : Memory.wf m = true) :
    Memory.wf (Memory.write m i b) = true := by
  induction m with
  | nil => simp [Memory.write, Memory.wf]
  | cons c rest ih =>
    obtain ⟨j, d⟩ := c
    simp only [Memory.wf, Bool.and_eq_true, List.all_eq_true, decide_eq_true_eq] at h
    simp only [Memory.write]
    split_ifs with h1 h2
    · simp only [Memory.wf, Bool.and_eq_true, List.all_eq_true, decide_eq_true_eq,
        List.mem_cons, forall_eq_or_imp]
      exact ⟨⟨h1, fun c hc => h1.trans (h.1 c hc)⟩, h⟩
    · subst h2
      simpa [Memory.wf] using h
    · simp only [Memory.wf, Bool.and_eq_true, List.all_eq_true, decide_eq_true_eq]
      refine ⟨fun c hc => ?_, ih h.2⟩
      rcases Memory.mem_write hc with rfl | hc
      · show j < i
        omega
      · exact h.1 c hc

theorem Memory.within_write (m : Memory) (i cap : Nat) (b : Byte)
    (h : Memory.within m cap = true) (hi : i < cap) :
    Memory.within (Memory.write m i b) cap = true := by
  simp only [Memory.within, List.all_eq_true, decide_eq_true_eq] at *
  intro c hc
  rcases Memory.mem_write hc with rfl | hc
  · exact hi
  · exact h c hc

/-! ### Byte sequences -/

theorem Memory.read_writeBytes_below (B : List Byte) (m : Memory) (i k : Nat) (h : k < i) :
    Memory.read (Memory.writeBytes m i B) k = Memory.read m k := by
  induction B generalizing m i with
  | nil => rfl
  | cons b rest ih =>
    rw [Memory.writeBytes, ih _ _ (by omega), Memory.read_write_other _ _ _ _ (by omega)]

/-- What a byte sequence stored from index `i` on reads as: its bytes at their places, and what was
there before at every other index. -/
theorem Memory.read_writeBytes (B : List Byte) (m : Memory) (i k : Nat) :
    Memory.read (Memory.writeBytes m i B) k =
      if i ≤ k ∧ k < i + B.length then B[k - i]? else Memory.read m k := by
  induction B generalizing m i with
  | nil =>
    simp only [Memory.writeBytes, List.length_nil]
    rw [if_neg (by omega)]
  | cons b rest ih =>
    rw [Memory.writeBytes, ih]
    by_cases hk : k = i
    · subst hk
      rw [if_neg (by omega), if_pos (by simp), Memory.read_write_same]
      simp
    · by_cases hr : i + 1 ≤ k ∧ k < i + 1 + rest.length
      · rw [if_pos hr, if_pos (by simp only [List.length_cons]; omega)]
        obtain ⟨d, rfl⟩ : ∃ d, k = i + 1 + d := ⟨k - (i + 1), by omega⟩
        have h1 : i + 1 + d - (i + 1) = d := by omega
        have h2 : i + 1 + d - i = d + 1 := by omega
        rw [h1, h2, List.getElem?_cons_succ]
      · rw [if_neg hr, if_neg (by simp only [List.length_cons]; omega),
          Memory.read_write_other _ _ _ _ hk]

theorem Memory.wf_writeBytes (B : List Byte) (m : Memory) (i : Nat) (h : Memory.wf m = true) :
    Memory.wf (Memory.writeBytes m i B) = true := by
  induction B generalizing m i with
  | nil => exact h
  | cons b rest ih => exact ih _ _ (Memory.wf_write m i b h)

theorem Memory.within_writeBytes (B : List Byte) (m : Memory) (i cap : Nat)
    (h : Memory.within m cap = true) (hi : i + B.length ≤ cap) :
    Memory.within (Memory.writeBytes m i B) cap = true := by
  induction B generalizing m i with
  | nil => exact h
  | cons b rest ih =>
    simp only [List.length_cons] at hi
    exact ih _ _ (Memory.within_write m i cap b h (by omega)) (by omega)

/-! ### Arrays of the state -/

@[simp] theorem length_readBytes (s : State) (a : Arr) (n : Nat) :
    (readBytes s a n).length = n := by
  simp [readBytes]

theorem getElem_readBytes (s : State) (a : Arr) (n i : Nat) (h : i < (readBytes s a n).length) :
    (readBytes s a n)[i] = readArr s a i := by
  simp [readBytes]

/-- Reading back a sequence that stands in an array. -/
theorem readBytes_eq_of_read (s : State) (a : Arr) (B : List Byte)
    (h : ∀ i, i < B.length → Memory.read (arrayOf s a) i = B[i]?) :
    readBytes s a B.length = B := by
  apply List.ext_getElem
  · simp
  · intro i h1 h2
    rw [getElem_readBytes]
    simp [readArr, h i h2, List.getElem?_eq_getElem h2]

/-- An array reads by its contents and by how many resets there have been. -/
theorem readArr_congr {s t : State} {a : Arr} (h1 : arrayOf s a = arrayOf t a)
    (h2 : s.epoch = t.epoch) (i : Nat) : readArr s a i = readArr t a i := by
  rw [readArr, readArr, h1, h2]

/-- An array that holds a byte sequence from index 0 on reads as the sequence, and past it as
before. -/
theorem readArr_writeBytes {s t : State} {a : Arr} {B : List Byte}
    (h1 : arrayOf t a = Memory.writeBytes (arrayOf s a) 0 B) (h2 : t.epoch = s.epoch) (i : Nat) :
    readArr t a i = if i < B.length then B.getD i 0#8 else readArr s a i := by
  rw [readArr, h1, h2, Memory.read_writeBytes]
  by_cases h : i < B.length
  · rw [if_pos (by omega), if_pos h]
    simp [h]
  · rw [if_neg (by omega), if_neg h]
    rfl

/-- The arrays after one array write. -/
theorem readArr_writeArr (s : State) (a c : Arr) (i k : Nat) (b : Byte) :
    readArr (writeArr s a i b) c k = if c = a ∧ k = i then b else readArr s c k := by
  by_cases hk : k = i
  · subst hk
    cases a <;> cases c <;> simp [readArr, writeArr, arrayOf, Memory.read_write_same]
  · cases a <;> cases c <;>
      simp [readArr, writeArr, arrayOf, Memory.read_write_other _ _ _ _ hk, hk]

end Sys2Proof.Machine
end

