-- ==== Sys2Proof/Laws/Ops.lean ====
section
/-! SUPPORT. One lemma for each shared operation, saying once everything it can do; proofs cite these
and do not unfold the operation. -/

namespace Sys2Proof.Machine

open Sys2Proof

/-! ### The start of a command -/

theorem issue_idle (run : State → State) {s : State} (h : s.cc.busy = false) :
    issue run s = run s := by
  simp [issue, h]

theorem issue_busy (run : State → State) {s : State} (h : s.cc.busy = true) :
    issue run s = refuse s := by
  simp [issue, h]

theorem needState_is {c : ConnState} (run : State → State) {s : State} (h : s.ctx.state = c) :
    needState c run s = run s := by
  simp [needState, h]

theorem needState_other {c : ConnState} (run : State → State) {s : State} (h : s.ctx.state ≠ c) :
    needState c run s = raise .eState 0#32 s := by
  simp [needState, h]

/-! ### Host accesses -/

/-- When a register write is accepted, without its table. -/
theorem writeAllowed_iff (s : State) (r : Reg) (w : Word) :
    writeAllowed s r w = true ↔
      s.cc.busy = false ∧ w.toNat ≤ regLimit s.cfg r ∧ writeRule r ≠ .never ∧
        (writeRule r = .whenClosed → s.ctx.state = .closed) := by
  unfold writeAllowed
  cases writeRule r <;> simp [and_assoc]

/-- A busy block refuses every access but a STATUS access. -/
theorem hostAccess_busy {s : State} {op : HostOp} (hb : s.cc.busy = true)
    (h1 : op ≠ .read .status) (h2 : ∀ w, op ≠ .write .status w) : hostAccess op s = refuse s := by
  cases op with
  | read r => cases r <;> simp_all [hostAccess, hostRead]
  | write r w => cases r <;> simp_all [hostAccess, hostWrite, writeAllowed]
  | readByte a i => simp [hostAccess, hostReadByte, hb]
  | writeByte a i b => simp [hostAccess, hostWriteByte, hb]

/-- Of STATUS, RESULT, IOERR and COUNT, a host access that is no command changes WREF alone. -/
theorem hostAccess_cc (op : HostOp) (s : State) :
    (hostAccess op s).cc = { s.cc with wref := (hostAccess op s).cc.wref } := by
  cases op with
  | read r => cases r <;> simp only [hostAccess, hostRead] <;> (try split) <;> rfl
  | write r w => cases r <;> simp only [hostAccess, hostWrite] <;> split_ifs <;> rfl
  | readByte a i => simp only [hostAccess, hostReadByte]; split_ifs <;> rfl
  | writeByte a i b => simp only [hostAccess, hostWriteByte]; split_ifs <;> cases a <;> rfl

/-- A busy block refuses a write of CMD too. -/
theorem fetchCommand_busy (w : Word) {s : State} (hb : s.cc.busy = true) :
    fetchCommand w s = .settled (refuse s) := by
  simp [fetchCommand, hb]

/-- The bus changes the answer to the host and nothing else. -/
theorem busAnswer_cases (op : BusOp) (s : State) :
    ∃ r, busAnswer op s = { s with env.reply := r } := by
  unfold busAnswer
  split
  · exact ⟨_, rfl⟩
  · exact ⟨_, rfl⟩
  · exact ⟨s.env.reply, rfl⟩

/-! ### The link -/

/-- A transmission goes on with the link's answer, after the same record of it. -/
theorem transmit_cases (B : List Byte) (onErr : Word → State → State) (onOk : State → State)
    (s : State) :
    (nextAnswer s = .ok ∧ transmit B onErr onOk s = onOk (linkTx B s)) ∨
      ∃ e, nextAnswer s = .err e ∧ transmit B onErr onOk s = onErr e (linkTx B s) := by
  unfold transmit
  cases h : nextAnswer s with
  | ok => exact .inl ⟨rfl, rfl⟩
  | err e => exact .inr ⟨e, rfl, rfl⟩

theorem transmit_ok (B : List Byte) (onErr : Word → State → State) (onOk : State → State)
    {s : State} (h : nextAnswer s = .ok) : transmit B onErr onOk s = onOk (linkTx B s) := by
  simp [transmit, h]

theorem transmit_err (B : List Byte) (onErr : Word → State → State) (onOk : State → State)
    {s : State} {e : Word} (h : nextAnswer s = .err e) :
    transmit B onErr onOk s = onErr e (linkTx B s) := by
  simp [transmit, h]

/-- Only the answers that are ready and their count decide the next answer. -/
theorem nextAnswer_congr {s t : State} (h1 : s.env.txAnswers = t.env.txAnswers)
    (h2 : s.env.txCount = t.env.txCount) : nextAnswer s = nextAnswer t := by
  simp [nextAnswer, h1, h2]

/-! ### BUF and S as values -/

theorem bufBytes_loadDatagram (B : List Byte) (s : State) (h : s.cfg.maxSeg ≤ 65535) :
    bufBytes (loadDatagram B s) = B.take s.cfg.maxSeg := by
  have hl : (B.take s.cfg.maxSeg).length % 65536 = (B.take s.cfg.maxSeg).length :=
    Nat.mod_eq_of_lt (by rw [List.length_take]; omega)
  have hn : (loadDatagram B s).buf.len.toNat = (B.take s.cfg.maxSeg).length := by
    rw [loadDatagram_buf_len, BitVec.toNat_ofNat, hl]
  rw [bufBytes, hn]
  apply readBytes_eq_of_read
  intro i hi
  show Memory.read (Memory.writeBytes s.buf.bytes 0 (B.take s.cfg.maxSeg)) i = _
  rw [Memory.read_writeBytes, if_pos (by omega), Nat.sub_zero]

theorem bufBytes_storeBuf (B : List Byte) (s : State) (h : B.length ≤ 65535) :
    bufBytes (storeBuf B s) = B := by
  have hn : (storeBuf B s).buf.len.toNat = B.length := by
    rw [storeBuf_buf_len, BitVec.toNat_ofNat, Nat.mod_eq_of_lt (by omega)]
  rw [bufBytes, hn]
  apply readBytes_eq_of_read
  intro i hi
  show Memory.read (Memory.writeBytes s.buf.bytes 0 B) i = _
  rw [Memory.read_writeBytes, if_pos (by omega), Nat.sub_zero]

theorem optBytes_storeSegment (T : Segment) (s : State) (h : T.opt.length < 64) :
    optBytes (storeSegment T s) = T.opt := by
  have hn : (storeSegment T s).seg.optlen.toNat = T.opt.length := by
    rw [storeSegment_seg_optlen, BitVec.toNat_ofNat, Nat.mod_eq_of_lt (by omega)]
  rw [optBytes, hn]
  apply readBytes_eq_of_read
  intro i hi
  show Memory.read (Memory.writeBytes s.seg.opt 0 T.opt) i = _
  rw [Memory.read_writeBytes, if_pos (by omega), Nat.sub_zero]

theorem payBytes_storeSegment (T : Segment) (s : State) (h : T.pay.length ≤ 65535) :
    payBytes (storeSegment T s) = T.pay := by
  have hn : (storeSegment T s).seg.paylen.toNat = T.pay.length := by
    rw [storeSegment_seg_paylen, BitVec.toNat_ofNat, Nat.mod_eq_of_lt (by omega)]
  rw [payBytes, hn]
  apply readBytes_eq_of_read
  intro i hi
  show Memory.read (Memory.writeBytes s.seg.pay 0 T.pay) i = _
  rw [Memory.read_writeBytes, if_pos (by omega), Nat.sub_zero]

theorem segOf_storeSegment (T : Segment) (s : State) (h1 : T.opt.length < 64)
    (h2 : T.pay.length ≤ 65535) : segOf (storeSegment T s) = T := by
  rw [segOf, optBytes_storeSegment T s h1, payBytes_storeSegment T s h2]
  rfl

theorem readArr_loadDatagram (B : List Byte) (s : State) (i : Nat) :
    readArr (loadDatagram B s) .buf i =
      if i < (B.take s.cfg.maxSeg).length then (B.take s.cfg.maxSeg).getD i 0#8
      else readArr s .buf i :=
  readArr_writeBytes (s := s) (a := .buf) (loadDatagram_buf_bytes B s) (loadDatagram_epoch B s) i

theorem readArr_storeBuf (B : List Byte) (s : State) (i : Nat) :
    readArr (storeBuf B s) .buf i = if i < B.length then B.getD i 0#8 else readArr s .buf i :=
  readArr_writeBytes (s := s) (a := .buf) (storeBuf_buf_bytes B s) (storeBuf_epoch B s) i

theorem readArr_storeSegment_opt (T : Segment) (s : State) (i : Nat) :
    readArr (storeSegment T s) .opt i =
      if i < T.opt.length then T.opt.getD i 0#8 else readArr s .opt i :=
  readArr_writeBytes (s := s) (a := .opt) (storeSegment_seg_opt T s) (storeSegment_epoch T s) i

theorem readArr_storeSegment_pay (T : Segment) (s : State) (i : Nat) :
    readArr (storeSegment T s) .pay i =
      if i < T.pay.length then T.pay.getD i 0#8 else readArr s .pay i :=
  readArr_writeBytes (s := s) (a := .pay) (storeSegment_seg_pay T s) (storeSegment_epoch T s) i

/-! ### Decoding -/

theorem hlen_le (f : Half) : hlen f ≤ 60 := by
  have h : ((f &&& 0xF000#16) >>> 10) ≤ 60#16 := by
    rw [BitVec.le_def, BitVec.toNat_ushiftRight, BitVec.toNat_and]
    have := @Nat.and_le_right f.toNat (0xF000#16).toNat
    have h2 : (0xF000#16).toNat = 61440 := rfl
    rw [Nat.shiftRight_eq_div_pow]
    have h3 : (60#16).toNat = 60 := rfl
    omega
  exact h

/-- What a successful decode says of the bytes, and what it returns. -/
theorem decodeAs_ok_iff (f : Half) (B : List Byte) (T : Segment) :
    decodeAs f B = .ok T ↔
      20 ≤ B.length ∧ 20 ≤ hlen f ∧ hlen f ≤ B.length ∧ T = sliceSegment f (hlen f) B := by
  unfold decodeAs
  split_ifs with h1 h2 h3
  · simp; omega
  · simp; omega
  · simp; omega
  · constructor
    · intro h
      exact ⟨by omega, by omega, by omega, (Except.ok.inj h).symm⟩
    · rintro ⟨-, -, -, rfl⟩
      rfl

/-- The failures of a decode, in the order of the rule. -/
theorem decodeAs_error {f : Half} {B : List Byte} {c : Code} (h : decodeAs f B = .error c) :
    (c = .eShort ∧ B.length < 20) ∨ (c = .eHlenLow ∧ 20 ≤ B.length ∧ hlen f < 20) ∨
      (c = .eHlenHigh ∧ 20 ≤ B.length ∧ 20 ≤ hlen f ∧ B.length < hlen f) := by
  unfold decodeAs at h
  split_ifs at h with h1 h2 h3
  · exact .inl ⟨(Except.error.inj h).symm, h1⟩
  · exact .inr (.inl ⟨(Except.error.inj h).symm, by omega, h2⟩)
  · exact .inr (.inr ⟨(Except.error.inj h).symm, by omega, by omega, h3⟩)

theorem length_opt_of_decodeAs {f : Half} {B : List Byte} {T : Segment}
    (h : decodeAs f B = .ok T) : T.opt.length = hlen f - 20 ∧ T.opt.length ≤ 40 := by
  obtain ⟨h1, h2, h3, rfl⟩ := (decodeAs_ok_iff f B T).1 h
  have := hlen_le f
  simp only [sliceSegment, List.length_take, List.length_drop]
  omega

theorem length_pay_of_decodeAs {f : Half} {B : List Byte} {T : Segment}
    (h : decodeAs f B = .ok T) : T.pay.length = B.length - hlen f := by
  obtain ⟨h1, h2, h3, rfl⟩ := (decodeAs_ok_iff f B T).1 h
  simp [sliceSegment]

theorem flags_of_decodeAs {f : Half} {B : List Byte} {T : Segment}
    (h : decodeAs f B = .ok T) : T.hdr.flags = f := by
  obtain ⟨-, -, -, rfl⟩ := (decodeAs_ok_iff f B T).1 h
  rfl

/-! ### Encoding -/

@[simp] theorem length_bytes16 (v : Half) : (bytes16 v).length = 2 := rfl
@[simp] theorem length_bytes32 (v : Word) : (bytes32 v).length = 4 := rfl
@[simp] theorem length_headerBytes (h : Header) : (headerBytes h).length = 20 := rfl

@[simp] theorem length_encodeSegment (T : Segment) :
    (encodeSegment T).length = T.length := by
  simp [encodeSegment, Segment.length, Nat.add_assoc]

@[simp] theorem length_segOf (s : State) : (segOf s).length = segLen s := by
  simp [segOf, segLen, Segment.length, optBytes, payBytes]

@[simp] theorem length_build (c : Half) (P : List Byte) (s : State) :
    (build c P s).length = 20 + P.length := by
  simp [build, buildSegment, buildDraft, Segment.withChecksum, Segment.length]

/-! ### A link event at a waiting command -/

theorem decideMatch_connect {s : State} (h : s.hid.cur = .connect) :
    decideMatch s = connectDecide s := by
  simp [decideMatch, h]

theorem decideMatch_accept {s : State} (h : s.hid.cur = .accept) :
    decideMatch s = acceptDecide s := by
  simp [decideMatch, h]

theorem decideMatch_recv {s : State} (h : s.hid.cur = .recv) : decideMatch s = recvDecide s := by
  simp [decideMatch, h]

theorem decideMatch_send {s : State} (h : s.hid.cur = .send) : decideMatch s = sendDecide s := by
  simp [decideMatch, h]

/-- CONNECT and ACCEPT end a failed wait in Closed. -/
theorem failWait_handshake (c : Code) (e : Word) {s : State}
    (h : s.hid.cur = .connect ∨ s.hid.cur = .accept) : failWait c e s = failClosed c e s := by
  rcases h with h | h <;> simp [failWait, h]

/-- RECV and SEND end a failed wait and leave STATE alone. -/
theorem failWait_transfer (c : Code) (e : Word) {s : State}
    (h : s.hid.cur = .recv ∨ s.hid.cur = .send) : failWait c e s = raise c e s := by
  rcases h with h | h <;> simp [failWait, h]

/-- A datagram too short for a header is dropped. -/
theorem rxSegment_short {f : Half} {s : State} (hp : s.hid.phase = .rxWait)
    (hd : decodeAs f (bufBytes s) = .error .eShort) : rxSegment f s = s := by
  simp [rxSegment, hp, hd]

/-- A bad header length is dropped, or ends the command, as the policy says. -/
theorem rxSegment_badHlen {f : Half} {s : State} {c : Code} (hp : s.hid.phase = .rxWait)
    (hd : decodeAs f (bufBytes s) = .error c) (hc : c ≠ .eShort) :
    rxSegment f s =
      match s.cfg.badHlen with
      | .drop => s
      | .fault => failWait .eMalformed 0#32 s := by
  cases c <;> cases hb : s.cfg.badHlen <;> first | exact absurd rfl hc | simp [rxSegment, hp, hd, hb]

/-- The ends and the going on of one turn of `wait_match`. -/
theorem rxSegment_cases (f : Half) (s : State) :
    rxSegment f s = s ∨
      (s.hid.phase = .rxWait ∧ s.cfg.badHlen = .fault ∧
        rxSegment f s = failWait .eMalformed 0#32 s) ∨
      (∃ T, s.hid.phase = .rxWait ∧ decodeAs f (bufBytes s) = .ok T ∧
        (rxSegment f s = storeSegment T s ∨
          (isMatching (storeSegment T s) = true ∧
            rxSegment f s = decideMatch (storeSegment T s)))) := by
  unfold rxSegment
  cases hp : s.hid.phase with
  | idle => exact .inl rfl
  | rxWait =>
    cases hd : decodeAs f (bufBytes s) with
    | error c =>
      cases c <;> cases hb : s.cfg.badHlen <;> simp
    | ok T =>
      refine .inr (.inr ⟨T, rfl, rfl, ?_⟩)
      dsimp only
      split_ifs with hm
      · exact .inr ⟨hm, rfl⟩
      · exact .inl rfl

/-! ### The step -/

/-- What a step does: it takes nothing, deals with its input, or runs an instruction. -/
theorem fetch_cases (s : State) :
    fetch s = .nothing ∨ (∃ t, fetch s = .settled t) ∨ ∃ i t, fetch s = .run i t := by
  cases h : fetch s with
  | nothing => exact .inl rfl
  | settled t => exact .inr (.inl ⟨t, rfl⟩)
  | run i t => exact .inr (.inr ⟨i, t, rfl⟩)

end Sys2Proof.Machine
end

