-- ==== Sys2Proof/Laws/Step.lean ====
section
/-! SUPPORT. The step taken apart: one equation for each outcome of the fetch. -/

namespace Sys2Proof.Machine

open Sys2Proof

theorem step_nothing {s : State} (h : fetch s = .nothing) : step s = .next s := by
  simp [step, h]

theorem step_settled {s t : State} (h : fetch s = .settled t) : step s = .next t := by
  simp [step, h]

theorem step_run {s t : State} {i : Instr} (h : fetch s = .run i t) : step s = exec i t := by
  simp [step, h]

theorem fetch_nil {s : State} (h : s.env.inbox = []) : fetch s = .nothing := by
  simp [fetch, h]

theorem fetch_host {s : State} {op : HostOp} {rest : List Input}
    (h : s.env.inbox = .host op :: rest) : fetch s = fetchHost op (popInput s) := by
  simp [fetch, h]

theorem fetch_bus {s : State} {op : BusOp} {rest : List Input}
    (h : s.env.inbox = .bus op :: rest) : fetch s = fetchBus op (popInput s) := by
  simp [fetch, h]

theorem fetch_link {s : State} {ev : LinkEvent} {rest : List Input}
    (h : s.env.inbox = .link ev :: rest) : fetch s = fetchLink ev (popInput s) := by
  simp [fetch, h]

theorem fetch_reset {s : State} {rest : List Input} (h : s.env.inbox = .reset :: rest) :
    fetch s = .settled (resetInput (popInput s)) := by
  simp [fetch, h]

/-- A host access other than a write of CMD is dealt with by the fetch. -/
theorem fetchHost_settled {op : HostOp} (h : ∀ w, op ≠ .write .cmd w) (s : State) :
    fetchHost op s = .settled (hostAccess op s) := by
  unfold fetchHost
  split
  · rename_i w
    exact absurd rfl (h w)
  · rfl

end Sys2Proof.Machine
end

