-- ==== Sys2Proof/Laws/Idle.lean ====
section
/-! SUPPORT. What the completions do to an idle block (a command that does not wait starts and ends in
one step, so BUSY and PHASE are as they were), and the lemmas of the terms of Safety.lean. -/

namespace Sys2Proof.Machine

open Sys2Proof

theorem complete_idle (c : Code) {s : State} (h : Idle s) :
    complete c s = { s with cc.result := c } := by
  obtain ⟨cfg, laddr, ctx, seg, buf, chk, ⟨busy, wref, result, ioerr, count⟩,
    ⟨cur, phase, sendLen⟩, epoch, env⟩ := s
  obtain ⟨h1, h2⟩ := h
  dsimp only at h1 h2
  subst h1 h2
  rfl

theorem done_idle (n : Word) {s : State} (h : Idle s) :
    done n s = { s with cc.result := .ok, cc.count := n } :=
  complete_idle .ok (s := { s with cc.count := n }) h

theorem raise_idle {c : Code} (hc : c ≠ .eIo) (e : Word) {s : State} (h : Idle s) :
    raise c e s = { s with cc.result := c } := by
  cases c <;> first | exact absurd rfl hc | exact complete_idle _ h

theorem raiseIo_idle (e : Word) {s : State} (h : Idle s) :
    raise .eIo e s = { s with cc.result := .eIo, cc.ioerr := e } :=
  complete_idle .eIo (s := { s with cc.ioerr := e }) h

theorem popInput_eq {s : State} {i : Input} {rest : List Input} (h : s.env.inbox = i :: rest) :
    popInput s = { s with env.inbox := rest } := by
  simp [popInput, h]

/-- The datagram a waiting command has taken is in BUF (20_memory.md R53; 42_fsm.md R135). -/
theorem bufBytes_taken (B : List Byte) {s : State} (h : s.cfg.Legal) :
    bufBytes (taken B s) = B.take s.cfg.maxSeg :=
  bufBytes_loadDatagram B _ h.2.1

theorem isMatching_iff (T : Segment) (s : State) :
    isMatching (storeSegment T s) = true ↔ Matches s T := by
  rw [isMatching, Bool.and_eq_true, decide_eq_true_iff, decide_eq_true_iff]
  rfl

/-- One turn of `wait_match` on a datagram that decodes to a matching segment. -/
theorem rxSegment_matching {f : Half} {s : State} {T : Segment} (hp : s.hid.phase = .rxWait)
    (hd : decodeAs f (bufBytes s) = .ok T) (hm : Matches s T) :
    rxSegment f s = decideMatch (storeSegment T s) := by
  simp [rxSegment, hp, hd, (isMatching_iff T s).2 hm]

/-- One turn of `wait_match` on a datagram that decodes to another segment. -/
theorem rxSegment_other {f : Half} {s : State} {T : Segment} (hp : s.hid.phase = .rxWait)
    (hd : decodeAs f (bufBytes s) = .ok T) (hm : ¬ Matches s T) :
    rxSegment f s = storeSegment T s := by
  have : isMatching (storeSegment T s) = false := by
    rw [← Bool.not_eq_true, isMatching_iff]
    exact hm
  simp [rxSegment, hp, hd, this]

/-- An offered segment is what the turn of `wait_match` decodes under its own flags field. -/
theorem decodeAs_of_offered {s : State} {f : Half} {T : Segment} (h : Offered s f T) :
    decodeAs f (bufBytes s) = .ok T := by
  obtain ⟨hd, hf⟩ := h
  have := flags_of_decodeAs hd
  rw [hf] at this
  rw [this]
  exact hd

/-- What the fetch makes of an offered datagram, in a wait. -/
theorem fetch_datagram {s : State} {B : List Byte} {rest : List Input}
    (hi : s.env.inbox = .link (.dgram B) :: rest) (hp : s.hid.phase = .rxWait) :
    fetch s = fetchDatagram B (takeEvent (.dgram B) (popInput s)) := by
  rw [fetch_link hi]
  simp [fetchLink, hp]

/-- A datagram long enough for a header whose flags field is of a kind is that instruction. -/
theorem fetch_datagram_kind {s : State} {B : List Byte} {rest : List Input} {i : Instr}
    (hi : s.env.inbox = .link (.dgram B) :: rest) (hp : s.hid.phase = .rxWait)
    (hl : 20 ≤ (B.take s.cfg.maxSeg).length)
    (hd : decodeFlags s.cfg.flagMask (be16 (B.take s.cfg.maxSeg) 12) = .ok i) :
    fetch s = .run i (taken B s) := by
  refine ((fetch_datagram hi hp).trans (if_neg (Nat.not_lt.2 hl))).trans ?_
  show (match decodeFlags s.cfg.flagMask (be16 (B.take s.cfg.maxSeg) 12) with
    | .error _ => Todo.settled _ | .ok i => Todo.run i _) = _
  rw [hd]
  rfl

/-- What a step makes of a datagram that a waiting command takes, whatever its flags field. -/
theorem step_datagram {s : State} {B : List Byte} {rest : List Input}
    (hi : s.env.inbox = .link (.dgram B) :: rest) (hp : s.hid.phase = .rxWait) :
    step s = .next (rxSegment (be16 (B.take s.cfg.maxSeg) 12) (taken B s)) ∨
      ∃ i, decodeFlags s.cfg.flagMask (be16 (B.take s.cfg.maxSeg) 12) = .ok i ∧
        20 ≤ (B.take s.cfg.maxSeg).length ∧ fetch s = .run i (taken B s) ∧
        step s = exec i (taken B s) := by
  have hf := fetch_datagram hi hp
  by_cases hl : (B.take s.cfg.maxSeg).length < 20
  · exact .inl (step_settled (hf.trans (if_pos hl)))
  · cases hd : decodeFlags s.cfg.flagMask (be16 (B.take s.cfg.maxSeg) 12) with
    | error e =>
      refine .inl (step_settled ((hf.trans (if_neg hl)).trans ?_))
      show (match decodeFlags s.cfg.flagMask (be16 (B.take s.cfg.maxSeg) 12) with
        | .error _ => Todo.settled _ | .ok i => Todo.run i _) = _
      rw [hd]
      rfl
    | ok i =>
      have hr := fetch_datagram_kind hi hp (Nat.not_lt.1 hl) hd
      exact .inr ⟨i, rfl, Nat.not_lt.1 hl, hr, step_run hr⟩

end Sys2Proof.Machine
end

