-- ==== Sys2Proof/Laws/PerInstr.lean ====
section
/-! SUPPORT. What is said of every instruction as syntax, one lemma for each constructor: the bits
`encode` gives a well-formed instruction meet the match and mask columns of its row of
spec/opcode_table.json. -/

namespace Sys2Proof.Laws

open Sys2Proof

/-- The bits meet a row's `match` and `mask`, for a row of the command format or of the segment
format. -/
def MeetsRow (b : Encoded) (isCommand : Bool) (mask value : Nat) : Prop :=
  match b with
  | .command w => isCommand = true ∧ w &&& BitVec.ofNat 32 mask = BitVec.ofNat 32 value
  | .flags f => isCommand = false ∧ f &&& BitVec.ofNat 16 mask = BitVec.ofNat 16 value

/-- The `mask` column. -/
def rowMask : Instr → Nat
  | .csumClr => 0xFFFFFFFF
  | .csumAdd => 0xFFFFFFFF
  | .csumAddw _ => 0xFF0000FF
  | .csumFin => 0xFFFFFFFF
  | .csumSeg => 0xFFFFFFFF
  | .decode => 0xFFFFFFFF
  | .encode => 0xFFFFFFFF
  | .ctxLoad => 0xFFFFFFFF
  | .connect => 0xFFFFFFFF
  | .accept => 0xFFFFFFFF
  | .recv => 0xFFFFFFFF
  | .send => 0xFFFFFFFF
  | .close => 0xFFFFFFFF
  | .segSyn _ _ => 0x0FFF
  | .segSynAck _ _ => 0x0FFF
  | .segAck _ _ => 0x0FFF
  | .segPshAck _ _ => 0x0FFF
  | .segFinAck _ _ => 0x0FFF

/-- The `match` column. -/
def rowMatch : Instr → Nat
  | .csumClr => 0x00000001
  | .csumAdd => 0x00000002
  | .csumAddw _ => 0x00000003
  | .csumFin => 0x00000004
  | .csumSeg => 0x00000005
  | .decode => 0x00000010
  | .encode => 0x00000011
  | .ctxLoad => 0x00000020
  | .connect => 0x00000021
  | .accept => 0x00000022
  | .recv => 0x00000023
  | .send => 0x00000024
  | .close => 0x00000025
  | .segSyn _ _ => 0x0002
  | .segSynAck _ _ => 0x0012
  | .segAck _ _ => 0x0010
  | .segPshAck _ _ => 0x0018
  | .segFinAck _ _ => 0x0011

/-- Whether the row is of a command format (C0, CI) and not SEGKIND. -/
def rowIsCommand : Instr → Bool
  | .csumClr => true
  | .csumAdd => true
  | .csumAddw _ => true
  | .csumFin => true
  | .csumSeg => true
  | .decode => true
  | .encode => true
  | .ctxLoad => true
  | .connect => true
  | .accept => true
  | .recv => true
  | .send => true
  | .close => true
  | .segSyn _ _ => false
  | .segSynAck _ _ => false
  | .segAck _ _ => false
  | .segPshAck _ _ => false
  | .segFinAck _ _ => false

/-- The encoding of a well-formed instruction meets its row. -/
def TableRow.Statement (i : Instr) : Prop :=
  WellFormed i → MeetsRow (encode i) (rowIsCommand i) (rowMask i) (rowMatch i)

/-- A command row is met by its one word. -/
theorem meetsRow_command {w : Word} {mask value : Nat}
    (h : w &&& BitVec.ofNat 32 mask = BitVec.ofNat 32 value) :
    MeetsRow (.command w) true mask value := ⟨rfl, h⟩

/-- A segment row is met by every flags field of its kind. -/
theorem meetsRow_flags (hl : BitVec 4) {rsv : BitVec 7} (k : Kind) {value : Nat}
    (hw : reservedClear tableMask rsv = true) (hv : k.flags = BitVec.ofNat 16 value) :
    MeetsRow (.flags (flagsField hl rsv k)) false 0x0FFF value :=
  ⟨rfl, (ctrl_flagsField hl rsv k (mask := tableMask) (by decide) (by decide) hw).trans hv⟩

theorem TableRow.csumClr : TableRow.Statement .csumClr := fun _ => meetsRow_command (by decide)
theorem TableRow.csumAdd : TableRow.Statement .csumAdd := fun _ => meetsRow_command (by decide)
theorem TableRow.csumAddw (imm : Half) : TableRow.Statement (.csumAddw imm) :=
  fun _ => meetsRow_command (encodeCI_and_row imm)
theorem TableRow.csumFin : TableRow.Statement .csumFin := fun _ => meetsRow_command (by decide)
theorem TableRow.csumSeg : TableRow.Statement .csumSeg := fun _ => meetsRow_command (by decide)
theorem TableRow.decode : TableRow.Statement .decode := fun _ => meetsRow_command (by decide)
theorem TableRow.encode : TableRow.Statement .encode := fun _ => meetsRow_command (by decide)
theorem TableRow.ctxLoad : TableRow.Statement .ctxLoad := fun _ => meetsRow_command (by decide)
theorem TableRow.connect : TableRow.Statement .connect := fun _ => meetsRow_command (by decide)
theorem TableRow.accept : TableRow.Statement .accept := fun _ => meetsRow_command (by decide)
theorem TableRow.recv : TableRow.Statement .recv := fun _ => meetsRow_command (by decide)
theorem TableRow.send : TableRow.Statement .send := fun _ => meetsRow_command (by decide)
theorem TableRow.close : TableRow.Statement .close := fun _ => meetsRow_command (by decide)
theorem TableRow.segSyn (hl : BitVec 4) (rsv : BitVec 7) : TableRow.Statement (.segSyn hl rsv) :=
  fun h => meetsRow_flags hl .syn h (show Kind.syn.flags = 0x0002#16 by decide)
theorem TableRow.segSynAck (hl : BitVec 4) (rsv : BitVec 7) :
    TableRow.Statement (.segSynAck hl rsv) :=
  fun h => meetsRow_flags hl .synAck h (show Kind.synAck.flags = 0x0012#16 by decide)
theorem TableRow.segAck (hl : BitVec 4) (rsv : BitVec 7) : TableRow.Statement (.segAck hl rsv) :=
  fun h => meetsRow_flags hl .ack h (show Kind.ack.flags = 0x0010#16 by decide)
theorem TableRow.segPshAck (hl : BitVec 4) (rsv : BitVec 7) :
    TableRow.Statement (.segPshAck hl rsv) :=
  fun h => meetsRow_flags hl .pshAck h (show Kind.pshAck.flags = 0x0018#16 by decide)
theorem TableRow.segFinAck (hl : BitVec 4) (rsv : BitVec 7) :
    TableRow.Statement (.segFinAck hl rsv) :=
  fun h => meetsRow_flags hl .finAck h (show Kind.finAck.flags = 0x0011#16 by decide)

end Sys2Proof.Laws
end

