-- ==== Sys2Proof/Laws/Words.lean ====
section
/-! SUPPORT. The wire helpers and the folding loop as arithmetic on numbers: what each reads or gives,
and that reading back what was written gives it back. -/

namespace Sys2Proof

theorem toNat_append_eq {m n : Nat} (a : BitVec m) (b : BitVec n) :
    (a ++ b).toNat = a.toNat * 2 ^ n + b.toNat := by
  rw [BitVec.toNat_append, Nat.shiftLeft_eq, Nat.mul_comm,
    ← Nat.two_pow_add_eq_or_of_lt b.isLt]

theorem be16_toNat (B : List Byte) (i : Nat) :
    (be16 B i).toNat = (B.getD i 0#8).toNat * 256 + (B.getD (i + 1) 0#8).toNat :=
  toNat_append_eq _ _

theorem be32_toNat (B : List Byte) (i : Nat) :
    (be32 B i).toNat = (be16 B i).toNat * 65536 + (be16 B (i + 2)).toNat :=
  toNat_append_eq _ _

/-- The two bytes of a 16-bit number, put together again. -/
theorem bytes16_join (v : Half) : v.extractLsb' 8 8 ++ v.extractLsb' 0 8 = v := by
  apply BitVec.eq_of_toNat_eq
  have := v.isLt
  simp only [toNat_append_eq, BitVec.extractLsb'_toNat, Nat.shiftRight_eq_div_pow]
  omega

/-- The four bytes of a 32-bit number, put together again. -/
theorem bytes32_join (v : Word) :
    (v.extractLsb' 24 8 ++ v.extractLsb' 16 8 : Half) ++
      (v.extractLsb' 8 8 ++ v.extractLsb' 0 8 : Half) = v := by
  apply BitVec.eq_of_toNat_eq
  have := v.isLt
  simp only [toNat_append_eq, BitVec.extractLsb'_toNat, Nat.shiftRight_eq_div_pow]
  omega

/-- A 16-bit number put together from two bytes, taken apart again. -/
theorem bytes16_append (a b : Byte) : bytes16 (a ++ b) = [a, b] := by
  have ha := a.isLt
  have hb := b.isLt
  have h1 : (a ++ b : Half).extractLsb' 8 8 = a := by
    apply BitVec.eq_of_toNat_eq
    rw [BitVec.extractLsb'_toNat, toNat_append_eq, Nat.shiftRight_eq_div_pow]
    omega
  have h2 : (a ++ b : Half).extractLsb' 0 8 = b := by
    apply BitVec.eq_of_toNat_eq
    rw [BitVec.extractLsb'_toNat, toNat_append_eq, Nat.shiftRight_eq_div_pow]
    omega
  rw [bytes16, h1, h2]

/-- A 32-bit number put together from two halves, taken apart again. -/
theorem bytes32_append (a b : Half) : bytes32 (a ++ b) = bytes16 a ++ bytes16 b := by
  have ha := a.isLt
  have hb := b.isLt
  unfold bytes32 bytes16
  simp only [List.cons_append, List.nil_append, List.cons.injEq, and_true]
  refine ⟨?_, ?_, ?_, ?_⟩ <;> apply BitVec.eq_of_toNat_eq <;>
    simp only [BitVec.extractLsb'_toNat, toNat_append_eq, Nat.shiftRight_eq_div_pow] <;> omega

namespace Machine

/-- `hlen` as arithmetic: four times the top nibble. -/
theorem hlen_eq (f : Half) : hlen f = 4 * (f.toNat / 4096) := by
  have e : (f &&& 0xF000#16) >>> 10 = (f >>> 12) <<< 2 := by
    ext i hi
    interval_cases i <;> simp
  have hf := f.isLt
  rw [hlen, e, BitVec.toNat_shiftLeft, BitVec.toNat_ushiftRight, Nat.shiftRight_eq_div_pow,
    Nat.shiftLeft_eq]
  omega

/-- One pass of the fold loop as arithmetic: it does not wrap. -/
theorem foldPass_toNat (s : Word) : (foldPass s).toNat = s.toNat % 65536 + s.toNat / 65536 := by
  have e1 : (s &&& 0xFFFF#32).toNat = s.toNat % 65536 := by
    rw [BitVec.toNat_and]
    exact Nat.and_two_pow_sub_one_eq_mod _ 16
  have hs := s.isLt
  rw [foldPass, BitVec.toNat_add, e1, BitVec.toNat_ushiftRight, Nat.shiftRight_eq_div_pow,
    Nat.mod_eq_of_lt (by omega)]

/-- When the fold loop ends. -/
theorem shiftRight16_eq_zero (s : Word) : s >>> 16 = 0#32 ↔ s.toNat < 65536 := by
  have hs := s.isLt
  rw [← BitVec.toNat_inj, BitVec.toNat_ushiftRight, Nat.shiftRight_eq_div_pow]
  show s.toNat / 2 ^ 16 = 0 ↔ _
  omega

end Machine

end Sys2Proof
end

