-- ==== Sys2Proof/Tests/Slice0.lean ====
section
/-! SUPPORT. The model's own tests. Every expected value is one that spec/ writes out: the table values
of 30_encoding.md R62, R69 and R75, and the vectors of 95_test_vectors.md, each named in the comment of
its test. -/

namespace Sys2Proof.Machine.Tests

open Sys2Proof Sys2Proof.Machine

/-! ### Which instructions have a word -/

/-- An ill-formed term for each check: a reserved bit that the mask covers. -/
theorem test_wellFormed_refuses_covered_reserved_bits :
    (Instr.segSyn 5#4 1#7).wf tableMask = false ∧
    (Instr.segSynAck 5#4 2#7).wf tableMask = false ∧
    (Instr.segAck 5#4 4#7).wf tableMask = false ∧
    (Instr.segPshAck 5#4 8#7).wf tableMask = false ∧
    (Instr.segFinAck 5#4 64#7).wf tableMask = false := by decide

/-- Under the mask 0x001F no reserved bit is covered (R65). -/
theorem test_wellFormed_accepts_uncovered_reserved_bits :
    (Instr.segSynAck 5#4 2#7).wf 0x001F#16 = true ∧
    (Instr.segFinAck 5#4 127#7).wf 0x001F#16 = true ∧
    (Instr.csumAddw 0xFFFF#16).wf tableMask = true := by decide

/-! ### Decoding: the words written out field by field -/

/-- Bits 31 to 8 zero, OPC as R75 has it; CSUM_ADDW has IMM16 in bits 23 to 8 (R72, R73). -/
theorem test_decode_checksum_words :
    decodeCommand (0#24 ++ 0x01#8) = .ok .csumClr ∧
    decodeCommand (0#24 ++ 0x02#8) = .ok .csumAdd ∧
    decodeCommand (0#8 ++ 0xCB00#16 ++ 0x03#8) = .ok (.csumAddw 0xCB00#16) ∧
    decodeCommand (0#24 ++ 0x04#8) = .ok .csumFin ∧
    decodeCommand (0#24 ++ 0x05#8) = .ok .csumSeg := by decide

theorem test_decode_codec_words :
    decodeCommand (0#24 ++ 0x10#8) = .ok .decode ∧
    decodeCommand (0#24 ++ 0x11#8) = .ok .encode := by decide

theorem test_decode_fsm_words :
    decodeCommand (0#24 ++ 0x20#8) = .ok .ctxLoad ∧
    decodeCommand (0#24 ++ 0x21#8) = .ok .connect ∧
    decodeCommand (0#24 ++ 0x22#8) = .ok .accept ∧
    decodeCommand (0#24 ++ 0x23#8) = .ok .recv ∧
    decodeCommand (0#24 ++ 0x24#8) = .ok .send ∧
    decodeCommand (0#24 ++ 0x25#8) = .ok .close := by decide

/-- HL in bits 15 to 12, the reserved bits 11 to 5, then ACK PSH RST SYN FIN (R61, R62, R69). -/
theorem test_decode_segment_kinds :
    decodeFlags tableMask (5#4 ++ 0#7 ++ 0b00010#5) = .ok (.segSyn 5#4 0#7) ∧
    decodeFlags tableMask (6#4 ++ 0#7 ++ 0b10010#5) = .ok (.segSynAck 6#4 0#7) ∧
    decodeFlags tableMask (15#4 ++ 0#7 ++ 0b10000#5) = .ok (.segAck 15#4 0#7) ∧
    decodeFlags tableMask (8#4 ++ 0#7 ++ 0b11000#5) = .ok (.segPshAck 8#4 0#7) ∧
    decodeFlags tableMask (0#4 ++ 0#7 ++ 0b10001#5) = .ok (.segFinAck 0#4 0#7) := by decide

/-- V-E2: ECE set is another kind under the default mask and a SYN-ACK under 0x001F. -/
theorem test_decode_flags_masks :
    decodeFlags 0x0FFF#16 0x5052#16 = .error (.otherFlags 0x0052#16) ∧
    decodeFlags 0x001F#16 0x5052#16 = .ok (.segSynAck 5#4 2#7) := by decide

/-- V-E4: the illegal words. -/
theorem test_decode_illegal_words :
    decodeCommand 0x00000006#32 = .error (.unassignedOpcode 0x06#8) ∧
    decodeCommand 0x000000FF#32 = .error (.unassignedOpcode 0xFF#8) ∧
    decodeCommand 0x00000121#32 = .error (.reservedBits 0x00000121#32) ∧
    decodeCommand 0x01000603#32 = .error (.reservedBits 0x01000603#32) := by decide

/-- V-E1 and V-E3. -/
theorem test_hlen_mkflags :
    hlen 0x6012#16 = 24 ∧ hlen 0xF010#16 = 60 ∧ hlen 0x4010#16 = 16 ∧ hlen 0x5FFF#16 = 20 ∧
    mkflags 20 0xFFFF#16 = 0x5FFF#16 ∧ mkflags 22 0#16 = 0x5000#16 ∧
    mkflags 60 0x0010#16 = 0xF010#16 := by decide

/-! ### Small states -/

/-- Bytes from numbers. -/
def hex (B : List Nat) : List Byte := B.map (BitVec.ofNat 8)

/-- BUF holding a datagram. -/
def withBuf (B : List Byte) (s : State) : State :=
  { s with buf.bytes := Memory.writeBytes [] 0 B, buf.len := BitVec.ofNat 16 B.length }

/-- S.PAY and S.PAYLEN holding a payload. -/
def withPay (B : List Byte) (s : State) : State :=
  { s with seg.pay := Memory.writeBytes [] 0 B, seg.paylen := BitVec.ofNat 16 B.length }

/-- S.OPT and S.OPTLEN holding options. -/
def withOpt (B : List Byte) (s : State) : State :=
  { s with seg.opt := Memory.writeBytes [] 0 B, seg.optlen := BitVec.ofNat 6 B.length }

/-- The client context of 95_test_vectors.md, idle, with a draw and link answers ready. -/
def client (state : ConnState) (seq ack : Word) (draw : Word) (answer : TxAnswer) : State :=
  { State.reset with
    laddr := 0x0A00020F#32
    ctx :=
      { state := state, paddr := 0xCB007105#32, pport := 0x0050#16, lport := 0x0FA0#16
        seq := seq, ack := ack }
    env.draws := [draw]
    env.txAnswers := [answer] }

/-- The client context with a command waiting. -/
def waiting (c : Cmd) (state : ConnState) (seq ack : Word) (answer : TxAnswer) : State :=
  enterWait c (client state seq ack 0#32 answer)

/-- The state after one step on one offered datagram. -/
def offered (B : List Nat) (s : State) : Host.Outcome State Fault Refusal :=
  step (pushInput (.link (.dgram (hex B))) s)

/-- A property of the next state. -/
def nextHas (o : Host.Outcome State Fault Refusal) (p : State → Bool) : Bool :=
  match o with
  | .next t => p t
  | .fault _ => false
  | .refused _ => false

/-! ### The checksum unit -/

/-- R95. -/
theorem test_csumClr :
    nextHas (exec .csumClr { State.reset with chk.sum := 7#32 })
      (fun t => t.chk.sum == 0#32 && t.cc.result == .ok) = true := by decide

/-- V-C2: an odd region. -/
theorem test_csumAdd_odd :
    nextHas (exec .csumAdd (withBuf (hex [0x01, 0x02, 0x03]) State.reset))
      (fun t => t.chk.sum == 0x0402#32) = true := by decide

/-- V-C1. -/
theorem test_csumAdd_even :
    nextHas (exec .csumAdd
      (withBuf (hex [0x00, 0x01, 0xF2, 0x03, 0xF4, 0xF5, 0xF6, 0xF7]) State.reset))
      (fun t => t.chk.sum == 0x0002DDF0#32) = true := by decide

/-- V-C5: SUM wraps. -/
theorem test_csumAddw_wraps :
    nextHas (exec (.csumAddw 0x0020#16) { State.reset with chk.sum := 0xFFFFFFF0#32 })
      (fun t => t.chk.sum == 0x00000010#32) = true := by decide

/-- V-C8: the accumulator of the client SYN; SUM stays. -/
theorem test_csumFin :
    nextHas (exec .csumFin { State.reset with chk.sum := 0x000310CB#32 })
      (fun t => t.chk.out == 0xEF31#16 && t.chk.sum == 0x000310CB#32) = true := by decide

/-- V-C4: the corner where a third pass would be needed, if the rule needed one. -/
theorem test_fold_corners :
    fold 0x0001FFFF#32 = 0x00000001#32 ∧ fold 0xFFFF0000#32 = 0x0000FFFF#32 ∧
    compile 0x00010000#32 = 0xFFFE#16 := by decide

/-- V-C8: the client SYN, whatever S.CHECKSUM held. -/
theorem test_csumSeg :
    nextHas (exec .csumSeg { client .closed 0#32 0#32 0#32 .ok with
      seg.hdr := ⟨0x0FA0#16, 0x0050#16, 0x12345678#32, 0#32, 0x5002#16, 0xFFFF#16, 0x1234#16,
        0#16⟩ })
      (fun t => t.seg.hdr.checksum == 0xEF31#16) = true := by decide

/-- V-C14: one byte too long. -/
theorem test_csumSeg_tooLong :
    nextHas (exec .csumSeg { State.reset with
      seg.optlen := 4#6, seg.paylen := 65512#16, seg.hdr.checksum := 0x1234#16 })
      (fun t => t.cc.result == .eTooLong && t.seg.hdr.checksum == 0x1234#16) = true := by decide

/-! ### The codec unit -/

/-- V-D2: four option bytes. -/
theorem test_decode_options :
    nextHas (exec .decode (withBuf (hex
      [0x00, 0x50, 0x0F, 0xA0, 0x9A, 0xBC, 0xDE, 0xF0, 0x12, 0x34, 0x56, 0x79, 0x60, 0x12,
       0xFF, 0xFF, 0x5D, 0xB7, 0x00, 0x00, 0x02, 0x04, 0x05, 0xB4]) State.reset))
      (fun t => segOf t ==
        ⟨⟨0x0050#16, 0x0FA0#16, 0x9ABCDEF0#32, 0x12345679#32, 0x6012#16, 0xFFFF#16, 0x5DB7#16,
          0#16⟩, hex [0x02, 0x04, 0x05, 0xB4], []⟩ && t.cc.count == 0#32) = true := by decide

/-- V-D5: HL = 6 in a datagram of 20 bytes; S is left alone. -/
theorem test_decode_hlenHigh :
    nextHas (exec .decode (withBuf (hex
      [0x0F, 0xA0, 0x00, 0x50, 0x12, 0x34, 0x56, 0x78, 0x00, 0x00, 0x00, 0x00, 0x60, 0x02,
       0xFF, 0xFF, 0x00, 0x00, 0x00, 0x00]) State.reset))
      (fun t => t.cc.result == .eHlenHigh && t.seg == State.reset.seg) = true := by decide

/-- V-D10: S is not well formed, and is encoded all the same. -/
theorem test_encode_illFormed :
    nextHas (exec .encode (withOpt (hex [1, 1, 1, 1]) (withPay (hex [0xAA])
      { State.reset with seg.hdr.flags := 0x5010#16 })))
      (fun t => bufBytes t == hex
        [0, 0, 0, 0, 0, 0, 0, 0, 0, 0, 0, 0, 0x50, 0x10, 0, 0, 0, 0, 0, 0, 1, 1, 1, 1, 0xAA] &&
        t.cc.count == 25#32) = true := by decide

/-! ### The FSM unit -/

/-- V-F20: CTX_LOAD in Closed. -/
theorem test_ctxLoad :
    nextHas (exec .ctxLoad State.reset)
      (fun t => t.ctx.state == .established && t.cc.result == .ok) = true := by decide

/-- V-F1: the SYN. -/
theorem test_connect :
    nextHas (exec .connect (client .closed 0#32 0#32 0x12345678#32 .ok))
      (fun t => t.env.trace == [.tx (hex
        [0x0F, 0xA0, 0x00, 0x50, 0x12, 0x34, 0x56, 0x78, 0, 0, 0, 0, 0x50, 0x02, 0xFF, 0xFF,
         0xEF, 0x31, 0, 0]) .ok] && t.ctx.state == .synSent && t.cc.busy) = true := by decide

/-- V-F19 (d): the link refuses the SYN. -/
theorem test_connect_linkError :
    nextHas (exec .connect (client .closed 0#32 9#32 5#32 (.err 0x11#32)))
      (fun t => t.cc.result == .eIo && t.cc.ioerr == 0x11#32 && t.ctx.state == .closed &&
        t.ctx.seq == 5#32 && t.ctx.ack == 0#32) = true := by decide

/-- V-F17: the SYN-ACK for the SYN in S. -/
theorem test_accept :
    nextHas (exec .accept { client .closed 0#32 0#32 0xCAFEBABE#32 .ok with
      ctx.lport := 0x1F90#16, seg.hdr.src := 0xC738#16, seg.hdr.seqnum := 0x00001000#32 })
      (fun t => t.env.trace == [.tx (hex
        [0x1F, 0x90, 0xC7, 0x38, 0xCA, 0xFE, 0xBA, 0xBE, 0x00, 0x00, 0x10, 0x01, 0x50, 0x12,
         0xFF, 0xFF, 0xEB, 0x36, 0, 0]) .ok] && t.ctx.pport == 0xC738#16) = true := by decide

/-- V-F20: RECV after reset. -/
theorem test_recv_wrongState :
    nextHas (exec .recv State.reset)
      (fun t => t.cc.result == .eState && !t.cc.busy) = true := by decide

/-- V-F7: the PSH-ACK with ten bytes. -/
theorem test_send :
    nextHas (exec .send (withPay (hex
      [0x30, 0x31, 0x32, 0x33, 0x34, 0x35, 0x36, 0x37, 0x38, 0x39])
      (client .established 100#32 5000#32 0#32 .ok)))
      (fun t => t.env.trace == [.tx (hex
        [0x0F, 0xA0, 0x00, 0x50, 0, 0, 0, 0x64, 0, 0, 0x13, 0x88, 0x50, 0x18, 0xFF, 0xFF, 0x3E,
         0xC8, 0, 0, 0x30, 0x31, 0x32, 0x33, 0x34, 0x35, 0x36, 0x37, 0x38, 0x39]) .ok] &&
        t.hid.sendLen == 10#16) = true := by decide

/-- V-F16, second case: the link refuses the FIN-ACK and nothing comes of it. -/
theorem test_close_linkError :
    nextHas (exec .close (client .established 110#32 5005#32 0#32 (.err 0x20#32)))
      (fun t => t.env.trace == [.tx (hex
        [0x0F, 0xA0, 0x00, 0x50, 0, 0, 0, 0x6E, 0, 0, 0x13, 0x8D, 0x50, 0x11, 0xFF, 0xFF, 0x43,
         0xD4, 0, 0]) (.err 0x20#32)] && t.ctx.state == .closed && t.cc.result == .ok &&
        t.cc.ioerr == 0#32) = true := by decide

/-- V-F1: the SYN-ACK and the last ACK of the handshake. -/
theorem test_segSynAck_connect :
    nextHas (offered
      [0x00, 0x50, 0x0F, 0xA0, 0x9A, 0xBC, 0xDE, 0xF0, 0x12, 0x34, 0x56, 0x79, 0x50, 0x12, 0xFF,
       0xFF, 0x75, 0x73, 0x00, 0x00] (waiting .connect .synSent 0x12345678#32 0#32 .ok))
      (fun t => t.env.trace.getLast? == some (.tx (hex
        [0x0F, 0xA0, 0x00, 0x50, 0x12, 0x34, 0x56, 0x79, 0x9A, 0xBC, 0xDE, 0xF1, 0x50, 0x10, 0xFF,
         0xFF, 0x75, 0x74, 0, 0]) .ok) && t.ctx.state == .established) = true := by decide

/-- V-F4: the SYN-ACK with ECE set, under the two masks. -/
theorem test_segSynAck_mask :
    nextHas (offered
      [0x00, 0x50, 0x0F, 0xA0, 0x9A, 0xBC, 0xDE, 0xF0, 0x12, 0x34, 0x56, 0x79, 0x50, 0x52, 0xFF,
       0xFF, 0x75, 0x33, 0x00, 0x00] (waiting .connect .synSent 0x12345678#32 0#32 .ok))
      (fun t => t.cc.result == .eHandshake && t.ctx.state == .closed) = true ∧
    nextHas (offered
      [0x00, 0x50, 0x0F, 0xA0, 0x9A, 0xBC, 0xDE, 0xF0, 0x12, 0x34, 0x56, 0x79, 0x50, 0x52, 0xFF,
       0xFF, 0x75, 0x33, 0x00, 0x00]
      { waiting .connect .synSent 0x12345678#32 0#32 .ok with cfg.flagMask := 0x001F#16 })
      (fun t => t.ctx.state == .established && t.ctx.seq == 0x12345679#32) = true := by decide

/-- V-F9: a partial acknowledgment of ten bytes. -/
theorem test_segAck_send :
    nextHas (offered
      [0x00, 0x50, 0x0F, 0xA0, 0, 0, 0x13, 0x88, 0, 0, 0, 0x69, 0x50, 0x10, 0xFF, 0xFF, 0x43, 0xDF,
       0, 0] { waiting .send .established 100#32 5000#32 .ok with hid.sendLen := 10#16 })
      (fun t => t.ctx.seq == 105#32 && t.ctx.ack == 5000#32 && t.cc.count == 10#32) = true := by
  decide

/-- V-F8: data, its ACK, and COUNT. -/
theorem test_segPshAck_recv :
    nextHas (offered
      [0x00, 0x50, 0x0F, 0xA0, 0, 0, 0x13, 0x88, 0, 0, 0, 0x6E, 0x50, 0x18, 0xFF, 0xFF, 0xFF, 0xFA,
       0, 0, 0x68, 0x65, 0x6C, 0x6C, 0x6F] (waiting .recv .established 110#32 5000#32 .ok))
      (fun t => t.env.trace.getLast? == some (.tx (hex
        [0x0F, 0xA0, 0x00, 0x50, 0, 0, 0, 0x6E, 0, 0, 0x13, 0x8D, 0x50, 0x10, 0xFF, 0xFF, 0x43,
         0xD5, 0, 0]) .ok) && t.cc.count == 5#32 && t.ctx.ack == 5005#32) = true := by decide

/-- V-F22: a datagram longer than MAX_SEG = 24 loses its last byte. -/
theorem test_segPshAck_truncated :
    nextHas (offered
      [0x00, 0x50, 0x0F, 0xA0, 0, 0, 0x13, 0x88, 0, 0, 0, 0x6E, 0x50, 0x18, 0xFF, 0xFF, 0xFF, 0xFA,
       0, 0, 0x68, 0x65, 0x6C, 0x6C, 0x6F]
      { waiting .recv .established 110#32 5000#32 .ok with cfg.maxSeg := 24 })
      (fun t => t.cc.count == 4#32 && t.ctx.ack == 5004#32 && t.buf.len == 24#16) = true := by
  decide

/-- V-F15: FIN-ACK at RECV is skipped. -/
theorem test_segFinAck_recv :
    nextHas (offered
      [0x00, 0x50, 0x0F, 0xA0, 0, 0, 0x13, 0x88, 0, 0, 0, 0x6E, 0x50, 0x11, 0xFF, 0xFF, 0x43, 0xD9,
       0, 0] (waiting .recv .established 110#32 5000#32 .ok))
      (fun t => t.cc.busy && t.hid.phase == .rxWait && t.seg.hdr.flags == 0x5011#16 &&
        t.ctx.ack == 5000#32) = true := by decide

/-- V-F17b: the SYN again at ACCEPT. -/
theorem test_segSyn_accept :
    nextHas (offered
      [0xC7, 0x38, 0x1F, 0x90, 0, 0, 0x10, 0, 0, 0, 0, 0, 0x50, 0x02, 0xFF, 0xFF, 0x71, 0x05, 0, 0]
      { waiting .accept .synRcvd 0xCAFEBABE#32 0x1001#32 .ok with
        ctx.lport := 0x1F90#16, ctx.pport := 0xC738#16 })
      (fun t => t.cc.result == .eHandshake && t.ctx.state == .closed &&
        t.ctx.seq == 0xCAFEBABE#32) = true := by decide

/-- V-F18: a bad header length in a RECV, under the two policies. -/
theorem test_badHlen_policies :
    nextHas (offered
      [0x00, 0x50, 0x0F, 0xA0, 0, 0, 0x13, 0x88, 0, 0, 0, 0x6E, 0x40, 0x18, 0xFF, 0xFF, 0xFF, 0xFA,
       0, 0, 0x68, 0x65, 0x6C, 0x6C, 0x6F] (waiting .recv .established 110#32 5000#32 .ok))
      (fun t => t.cc.busy && t.buf.len == 25#16) = true ∧
    nextHas (offered
      [0x00, 0x50, 0x0F, 0xA0, 0, 0, 0x13, 0x88, 0, 0, 0, 0x6E, 0x40, 0x18, 0xFF, 0xFF, 0xFF, 0xFA,
       0, 0, 0x68, 0x65, 0x6C, 0x6C, 0x6F]
      { waiting .recv .established 110#32 5000#32 .ok with cfg.badHlen := .fault })
      (fun t => t.cc.result == .eMalformed && t.ctx.state == .established &&
        t.seg == State.reset.seg) = true := by decide

/-! ### Host accesses -/

/-- V-X1 and V-X3: a wide value, and the limit of S.OPTLEN. -/
theorem test_writes_refused :
    (hostWrite .pport 0x00010050#32 State.reset).cc.wref = true ∧
    (hostWrite .sOptlen 41#32 State.reset).cc.wref = true ∧
    (hostWrite .sOptlen 40#32 State.reset).seg.optlen = 40#6 ∧
    (hostWrite .buflen 65536#32 State.reset).cc.wref = true := by decide

/-- V-X2: the context is locked while Established, S is not. -/
theorem test_context_locked :
    (hostWrite .seq 7#32 (client .established 100#32 0#32 0#32 .ok)).ctx.seq = 100#32 ∧
    (hostWrite .sSrc 7#32 (client .established 100#32 0#32 0#32 .ok)).seg.hdr.src = 7#16 := by
  decide

/-- V-X4: WREF is cleared by writing 1 to it. -/
theorem test_wref_write_one_clears :
    (hostRead .status (refuse State.reset)).env.reply = .word 0x00000002#32 ∧
    (hostWrite .status 0#32 (refuse State.reset)).cc.wref = true ∧
    (hostWrite .status 2#32 (refuse State.reset)).cc.wref = false := by decide

/-- V-X6: an illegal word of SEND's opcode is E_ILLEGAL_CMD although STATE is wrong too. -/
theorem test_illegal_before_state :
    nextHas (step (pushInput (.host (.write .cmd 0x00000124#32)) State.reset))
      (fun t => t.cc.result == .eIllegalCmd) = true := by decide

/-! ### Placing an instruction -/

theorem test_withFetchWord_runs_command :
    fetch (State.reset.withFetchWord 32 0x00000020) =
      .run .ctxLoad { State.reset with env.reply := .ok } := by decide

theorem test_withFetchWord_runs_segment :
    (match fetch (State.reset.withFetchWord 16 0x5012) with
      | .run i _ => some i
      | .nothing => none
      | .settled _ => none) = some (.segSynAck 5#4 0#7) := by decide

/-! ### The hypotheses of the statements are met

For each statement of Certificates/Slice0/Obligations.lean that has hypotheses, states and operands
that meet them, each clause at an end of its range. -/

theorem witness_DecodeEncodeAgree :
    tableMask &&& 0xF000#16 = 0#16 ∧ tableMask &&& 0x001F#16 = 0x001F#16 ∧
    (Instr.segAck 15#4 0#7).wf tableMask = true ∧ (Instr.csumAddw 0xFFFF#16).wf tableMask = true ∧
    (0x001F#16 : Half) &&& 0xF000#16 = 0#16 ∧ (Instr.segAck 0#4 127#7).wf 0x001F#16 = true := by
  decide

theorem witness_EncodeDecodeAgree :
    decodeCommand 0x00FFFF03#32 = .ok (.csumAddw 0xFFFF#16) ∧
    decodeCommand 0x00000025#32 = .ok .close ∧
    decodeFlags tableMask 0xF010#16 = .ok (.segAck 15#4 0#7) ∧
    decodeFlags 0x001F#16 0x5FF1#16 = .ok (.segFinAck 5#4 127#7) := by decide

/-- The state in which the host writes a word to CMD next. -/
def writes (w : Word) (s : State) : State := pushInput (.host (.write .cmd w)) s

theorem witness_IllegalWordChangesResultOnly :
    Idle (writes 0x00000006#32 State.reset) ∧
    (writes 0x00000006#32 State.reset).env.inbox = [.host (.write .cmd 0x00000006#32)] ∧
    (0x00000006#32 : Word).extractLsb' 0 8 = 0x06#8 ∧
    (0x00000121#32 : Word).extractLsb' 0 8 ≠ 0x03#8 ∧ 0x00000121#32 >>> 8 ≠ (0#32 : Word) ∧
    0x80000025#32 >>> 8 ≠ (0#32 : Word) ∧
    (0x01000603#32 : Word).extractLsb' 0 8 = 0x03#8 ∧ 0x01000603#32 >>> 24 ≠ (0#32 : Word) ∧
    0x00000025#32 >>> 8 = (0#32 : Word) ∧ 0x00FFFF03#32 >>> 24 = (0#32 : Word) := by decide

theorem witness_HeaderLengthArithmetic :
    0 % 4 = 0 ∧ 60 ≤ 60 ∧ 60 % 4 = 0 ∧ (0x0FFF#16 : Half) &&& 0xF000#16 = 0#16 := by decide

/-- A segment from the peer of the client context, with a given flags field and no payload. -/
def fromPeer (f : Half) : List Byte :=
  headerBytes ⟨0x0050#16, 0x0FA0#16, 5000#32, 110#32, f, 0xFFFF#16, 0#16, 0#16⟩

/-- The same segment as a value. -/
def peerSegment (f : Half) : Segment :=
  ⟨⟨0x0050#16, 0x0FA0#16, 5000#32, 110#32, f, 0xFFFF#16, 0#16, 0#16⟩, [], []⟩

/-- The state in which the link offers a datagram next. -/
def offers (B : List Byte) (s : State) : State := pushInput (.link (.dgram B)) s

theorem witness_StepRunsTheDecodedInstruction :
    (writes 0x00000020#32 State.reset).cc.busy = false ∧
    (writes 0x00000020#32 State.reset).env.inbox = [.host (.write .cmd 0x00000020#32)] ∧
    (pushInput (.bus (.writeWord 0 0x00000020#32)) State.reset).cc.busy = false ∧
    decodeCommand 0x00000020#32 = .ok .ctxLoad ∧
    (offers (fromPeer 0x5010#16) (waiting .send .established 1#32 1#32 .ok)).hid.phase = .rxWait ∧
    20 ≤ ((fromPeer 0x5010#16).take State.reset.cfg.maxSeg).length ∧
    decodeFlags State.reset.cfg.flagMask
      (be16 ((fromPeer 0x5010#16).take State.reset.cfg.maxSeg) 12) = .ok (.segAck 5#4 0#7) := by
  decide

theorem witness_EveryStepAnswers :
    State.reset.env.inbox = [] ∧ (waiting .recv .established 1#32 1#32 .ok).env.inbox = [] := by
  decide

theorem witness_WaitEndsOnlyByLinkOrReset :
    (waiting .recv .established 1#32 1#32 .ok).cc.busy = true ∧
    (waiting .recv .established 1#32 1#32 .ok).hid.phase = .rxWait ∧
    (writes 0x00000025#32 (waiting .recv .established 1#32 1#32 .ok)).env.inbox.head? =
      some (.host (.write .cmd 0x00000025#32)) := by decide

theorem witness_BusyBlockRefusesTheHost :
    (writes 0x00000025#32 (waiting .recv .established 1#32 1#32 .ok)).cc.busy = true ∧
    HostOp.write .cmd 0x00000025#32 ≠ .read .status := by decide

theorem witness_HostReadHasNoSideEffect :
    (pushInput (.host (.read .cmd)) State.reset).env.inbox = [.host (.read .cmd)] ∧
    (waiting .recv .established 1#32 1#32 .ok).cc.busy = true ∧
    (pushInput (.host (.read .sPaylen)) State.reset).cc.busy = false := by decide

theorem witness_HostWriteReadsBack :
    State.reset.cfg.Legal ∧
    (pushInput (.host (.write .sOptlen 40#32)) State.reset).env.inbox =
      [.host (.write .sOptlen 40#32)] ∧
    State.reset.cc.busy = false ∧ (40#32 : Word).toNat < 2 ^ regWidth .sOptlen ∧
    ¬ (41#32 : Word).toNat ≤ 40 ∧
    (65515#32 : Word).toNat ≤ State.reset.cfg.maxSeg - 20 ∧
    ¬ (65516#32 : Word).toNat ≤ State.reset.cfg.maxSeg - 20 ∧
    (65535#32 : Word).toNat ≤ State.reset.cfg.maxSeg ∧
    State.reset.ctx.state = .closed ∧ (0xFFFF#32 : Word).toNat < 2 ^ regWidth .pport ∧
    ¬ (0x10000#32 : Word).toNat < 2 ^ regWidth .pport := by decide

theorem witness_ByteAccessTouchesOneByte :
    (pushInput (.host (.writeByte .opt 39 0xAA#8)) State.reset).cc.busy = false ∧
    39 < State.reset.cfg.capacity .opt ∧ State.reset.cfg.capacity .opt ≤ 40 ∧
    65514 < State.reset.cfg.capacity .pay ∧ State.reset.cfg.capacity .pay ≤ 65515 ∧
    65534 < State.reset.cfg.capacity .buf ∧ State.reset.cfg.capacity .buf ≤ 65535 := by decide

theorem witness_StatusReadsAndClears :
    (pushInput (.host (.read .status)) State.reset).env.inbox = [.host (.read .status)] ∧
    (pushInput (.host (.write .status 2#32)) (refuse State.reset)).cc.wref = true := by decide

theorem witness_RegisterMapOffsets :
    State.reset.cfg.Legal ∧ regAt 0x03C = none ∧ regAt 0x068 = none ∧
    byteAt State.reset.cfg 0xA7 = some (.opt, 39) ∧ byteAt State.reset.cfg 0xA8 = none ∧
    byteAt State.reset.cfg 0x1FFFE = some (.buf, 65534) ∧
    byteAt State.reset.cfg 0x1FFFF = none ∧
    byteAt State.reset.cfg 0x2FFEA = some (.pay, 65514) ∧
    byteAt State.reset.cfg 0x2FFEB = none ∧
    regAt 0x000 = some .cmd ∧ regAt 0x064 = some .sPaylen ∧
    (pushInput (.bus (.writeWord 0x03C 1#32)) State.reset).env.inbox =
      [.bus (.writeWord 0x03C 1#32)] := by decide

/-- For the statements whose one hypothesis is that the block is idle: CSUM_CLR, CSUM_ADD, CSUM_FIN,
and the idle part of the others. -/
theorem witness_idle : Idle State.reset ∧ Idle (client .established 1#32 1#32 0#32 .ok) := by decide

theorem witness_CsumAddwAddsTheImmediate :
    Idle (writes 0x01000603#32 State.reset) ∧
    (0x01000603#32 : Word).extractLsb' 0 8 = 0x03#8 ∧ 0x01000603#32 >>> 24 ≠ (0#32 : Word) := by
  decide

/-- S one byte shorter than too long, and too long (also for EncodeWritesBuf). -/
theorem witness_CsumSegFillsTheChecksum :
    let s : State := { State.reset with seg.optlen := 4#6, seg.paylen := 65511#16 }
    let t : State := { State.reset with seg.optlen := 4#6, seg.paylen := 65512#16 }
    Idle s ∧ 20 + s.seg.optlen.toNat + s.seg.paylen.toNat ≤ s.cfg.maxSeg ∧
    Idle t ∧ t.cfg.maxSeg < 20 + t.seg.optlen.toNat + t.seg.paylen.toNat ∧ s.cfg.Legal := by decide

theorem witness_Sum16WordsAndLaws :
    ([] : List Byte).length % 2 = 0 ∧ [0xFF#8].length % 2 = 1 ∧ [0x01#8, 0x02#8].length % 2 = 0 := by
  decide

theorem witness_FoldAndCompile :
    0x0000FFFF#32 >>> 16 = (0#32 : Word) ∧ 0x00010000#32 >>> 16 ≠ (0#32 : Word) := by decide

theorem length_with_zeros (T : Segment) (n : Nat) :
    Segment.length { T with pay := List.replicate n 0#8 } = 20 + T.opt.length + n := by
  rw [Segment.length, List.length_replicate]

/-- A segment as long as a segment may be; also for FinishedSegmentChecks. -/
theorem witness_TcpsumCoversThePseudoHeader :
    Segment.length { peerSegment 0x5010#16 with pay := List.replicate 65515 0#8 } ≤ 65535 ∧
    (([fromPeer 0x5010#16, []] : List (List Byte)).map fun B => (B.length + 1) / 2).sum ≤ 65536 := by
  constructor
  · rw [length_with_zeros]
    decide
  · decide

theorem witness_DecodeReadsEveryField :
    ((fromPeer 0x5010#16).take 19).length = 19 ∧
    4 * (((fromPeer 0x4010#16).getD 12 0#8).toNat / 16) = 16 ∧
    4 * (((fromPeer 0x6010#16).getD 12 0#8).toNat / 16) = 24 ∧
    4 * (((fromPeer 0x5010#16).getD 12 0#8).toNat / 16) = 20 ∧
    (fromPeer 0x5010#16).length = 20 := by decide

theorem witness_DecodeLoadsS :
    Idle (withBuf (fromPeer 0x6010#16) State.reset) ∧
    decodeSegment (bufBytes (withBuf (fromPeer 0x6010#16) State.reset)) = .error .eHlenHigh ∧
    decodeSegment (bufBytes (withBuf (fromPeer 0x5010#16) State.reset)) =
      .ok (peerSegment 0x5010#16) := by decide

theorem witness_CodecRoundTrips :
    decodeSegment (fromPeer 0x5010#16) = .ok (peerSegment 0x5010#16) ∧
    hlen (peerSegment 0x5010#16).hdr.flags = 20 + (peerSegment 0x5010#16).opt.length ∧
    hlen (peerSegment 0x6010#16).hdr.flags ≠ 20 + (peerSegment 0x6010#16).opt.length := by decide

theorem witness_DecodeAndEncodeCommandsRoundTrip :
    let s := withBuf (fromPeer 0x5010#16) State.reset
    let u := storeSegment (peerSegment 0x5010#16) State.reset
    Idle s ∧ s.cfg.Legal ∧ s.buf.len.toNat ≤ s.cfg.maxSeg ∧
    nextHas (exec .decode s) (fun t => t.cc.result == .ok) = true ∧
    Idle u ∧ segWellFormed u ∧
    nextHas (exec .encode u) (fun t => t.cc.result == .ok) = true := by decide

theorem witness_DecodedSizes :
    decodeSegment (fromPeer 0x5010#16) = .ok (peerSegment 0x5010#16) ∧
    (fromPeer 0x5010#16).length ≤ 20 := by decide

/-- Also for CtxLoadAdoptsTheContext, RecvStartsWaiting and CloseIsFireAndForget. -/
theorem witness_WrongStateChangesResultOnly :
    Idle (client .established 1#32 1#32 0#32 .ok) ∧
    (client .established 1#32 1#32 0#32 .ok).ctx.state ≠ .closed ∧
    Idle State.reset ∧ State.reset.ctx.state ≠ .established := by decide

theorem witness_BuildMakesTheRulesSegment :
    Kind.flags .finAck &&& 0xF000#16 = 0#16 ∧ (0x0FFF#16 : Half) &&& 0xF000#16 = 0#16 := by decide

/-- Also for AcceptSendsTheSynAck. -/
theorem witness_ConnectSendsTheSyn :
    Idle (client .closed 0#32 0#32 7#32 .ok) ∧
    (client .closed 0#32 0#32 7#32 .ok).ctx.state = .closed ∧
    nextAnswer (client .closed 0#32 0#32 7#32 .ok) = .ok ∧
    nextAnswer (client .closed 0#32 0#32 7#32 (.err 0x11#32)) = .err 0x11#32 := by decide

theorem witness_SendTransmitsThePayload :
    Idle (client .established 0#32 0#32 7#32 .ok) ∧
    (client .established 0#32 0#32 7#32 .ok).ctx.state = .established ∧
    nextAnswer (client .established 0#32 0#32 7#32 .ok) = .ok ∧
    nextAnswer (client .established 0#32 0#32 7#32 (.err 5#32)) = .err 5#32 := by decide

/-- A waiting command that looks at a segment of a given flags field. -/
def looksAt (f : Half) (c : Cmd) (st : ConnState) (answer : TxAnswer) : State :=
  withBuf (fromPeer f) (waiting c st 100#32 5000#32 answer)

theorem witness_SynAckCompletesConnect :
    let s := looksAt (flagsField 5#4 0#7 .synAck) .connect .synSent .ok
    s.cfg.Legal ∧ Waiting .connect s ∧
    Offered s (flagsField 5#4 0#7 .synAck) (peerSegment 0x5012#16) ∧
    Matches s (peerSegment 0x5012#16) ∧
    (Instr.segSynAck 5#4 0#7).wf s.cfg.flagMask = true ∧ nextAnswer s = .ok ∧
    nextAnswer (looksAt 0x5012#16 .connect .synSent (.err 0x12#32)) = .err 0x12#32 := by decide

theorem witness_AckCompletesAccept :
    let s := looksAt (flagsField 5#4 0#7 .ack) .accept .synRcvd .ok
    s.cfg.Legal ∧ Waiting .accept s ∧
    Offered s (flagsField 5#4 0#7 .ack) (peerSegment 0x5010#16) ∧
    Matches s (peerSegment 0x5010#16) ∧
    (Instr.segAck 5#4 0#7).wf s.cfg.flagMask = true := by decide

theorem witness_AckCompletesSend :
    let s := looksAt (flagsField 5#4 0#7 .ack) .send .established .ok
    s.cfg.Legal ∧ Waiting .send s ∧
    Offered s (flagsField 5#4 0#7 .ack) (peerSegment 0x5010#16) ∧
    Matches s (peerSegment 0x5010#16) ∧
    (Instr.segAck 5#4 0#7).wf s.cfg.flagMask = true := by decide

theorem witness_PshAckCompletesRecv :
    let s := looksAt (flagsField 5#4 0#7 .pshAck) .recv .established .ok
    s.cfg.Legal ∧ Waiting .recv s ∧
    Offered s (flagsField 5#4 0#7 .pshAck) (peerSegment 0x5018#16) ∧
    Matches s (peerSegment 0x5018#16) ∧
    (Instr.segPshAck 5#4 0#7).wf s.cfg.flagMask = true ∧ nextAnswer s = .ok ∧
    nextAnswer (looksAt 0x5018#16 .recv .established (.err 0x33#32)) = .err 0x33#32 := by decide

theorem witness_RecvSkipsOtherKinds :
    let s := fun f => looksAt f .recv .established .ok
    (s 0x5002#16).cfg.Legal ∧ Waiting .recv (s 0x5002#16) ∧
    reservedClear (s 0x5002#16).cfg.flagMask 0#7 = true ∧
    Matches (s 0x5002#16) (peerSegment 0x5002#16) ∧
    Offered (s 0x5002#16) (flagsField 5#4 0#7 .syn) (peerSegment 0x5002#16) ∧
    Offered (s 0x5012#16) (flagsField 5#4 0#7 .synAck) (peerSegment 0x5012#16) ∧
    Offered (s 0x5010#16) (flagsField 5#4 0#7 .ack) (peerSegment 0x5010#16) ∧
    Offered (s 0x5011#16) (flagsField 5#4 0#7 .finAck) (peerSegment 0x5011#16) := by decide

/-- A RST, which is of no kind, offered to a waiting command: for the last clause of
RecvSkipsOtherKinds, OtherKindFailsTheHandshake, OtherKindBreaksThePipe. -/
theorem witness_other_kind_offered :
    let s := fun c st => offers (fromPeer 0x5014#16) (waiting c st 100#32 5000#32 .ok)
    decodeSegment ((fromPeer 0x5014#16).take State.reset.cfg.maxSeg) =
      .ok (peerSegment 0x5014#16) ∧
    Matches (s .recv .established) (peerSegment 0x5014#16) ∧
    (s .recv .established).env.inbox = [.link (.dgram (fromPeer 0x5014#16))] ∧
    (peerSegment 0x5014#16).hdr.flags &&& State.reset.cfg.flagMask ≠ 0x0018#16 ∧
    (peerSegment 0x5014#16).hdr.flags &&& State.reset.cfg.flagMask ≠ 0x0012#16 ∧
    (peerSegment 0x5014#16).hdr.flags &&& State.reset.cfg.flagMask ≠ 0x0010#16 ∧
    Waiting .recv (s .recv .established) ∧ Waiting .connect (s .connect .synSent) ∧
    Waiting .accept (s .accept .synRcvd) ∧ Waiting .send (s .send .established) := by decide

theorem witness_LinkErrorEndsTheWait :
    let s := fun c st => pushInput (.link (.err 0x6E#32)) (waiting c st 100#32 5000#32 .ok)
    (s .recv .established).env.inbox = [.link (.err 0x6E#32)] ∧
    Waiting .connect (s .connect .synSent) ∧ Waiting .accept (s .accept .synRcvd) ∧
    Waiting .recv (s .recv .established) ∧ Waiting .send (s .send .established) := by decide

theorem witness_BadHeaderLengthInAWait :
    let s := offers (fromPeer 0x4018#16) (waiting .recv .established 100#32 5000#32 .ok)
    let t : State := { s with cfg.badHlen := .fault }
    s.cfg.Legal ∧ t.cfg.Legal ∧ s.env.inbox = [.link (.dgram (fromPeer 0x4018#16))] ∧
    20 ≤ ((fromPeer 0x4018#16).take s.cfg.maxSeg).length ∧
    4 * (((fromPeer 0x4018#16).getD 12 0#8).toNat / 16) < 20 ∧
    ((fromPeer 0x6018#16).take s.cfg.maxSeg).length <
      4 * (((fromPeer 0x6018#16).getD 12 0#8).toNat / 16) ∧
    s.cfg.badHlen = .drop ∧ Waiting .recv s ∧ t.cfg.badHlen = .fault ∧ Waiting .recv t ∧
    nextHas (step { State.reset with cc.result := .eMalformed })
      (fun u => u.cc.result == .eMalformed) = true := by decide

theorem witness_NoiseIsSkipped :
    let s := offers ((fromPeer 0x5018#16).take 19) (waiting .recv .established 1#32 1#32 .ok)
    let t := offers (fromPeer 0x5018#16)
      { waiting .recv .established 1#32 1#32 .ok with ctx.lport := 0x0FA1#16 }
    s.cfg.Legal ∧ Waiting .recv s ∧
    (((fromPeer 0x5018#16).take 19).take s.cfg.maxSeg).length < 20 ∧
    decodeSegment ((fromPeer 0x5018#16).take t.cfg.maxSeg) = .ok (peerSegment 0x5018#16) ∧
    Waiting .recv t ∧ ¬ Matches t (peerSegment 0x5018#16) := by decide

/-- For TakenDatagramIsInBuf: the smallest and the largest MAX_SEG. -/
theorem witness_TakenDatagramIsInBuf :
    State.reset.cfg.Legal ∧ (Config.Legal { Config.standard with maxSeg := 20 }) := by decide

/-- The invariant holds of a waiting state too. -/
theorem witness_StepKeepsTheInvariant :
    BlockInv (waiting .recv .established 110#32 5000#32 .ok) := by
  refine ⟨by decide, by decide, by decide, by decide, fun a => ?_, fun a => ?_, by decide,
    by decide⟩ <;> cases a <;> decide

/-- CTX_LOAD moves STATE, in a state that satisfies the invariant. -/
theorem witness_StateMovesAreTheTables :
    BlockInv (writes 0x00000020#32 State.reset) ∧
    nextHas (step (writes 0x00000020#32 State.reset)) (fun t => t.ctx.state != .closed) = true := by
  refine ⟨⟨by decide, by decide, by decide, by decide, fun a => ?_, fun a => ?_, by decide,
    by decide⟩, by decide⟩ <;> cases a <;> decide

/-- A step that changes RESULT, one that changes COUNT, one that changes IOERR and ends a wait, and
one that changes RESULT by a word written at the offset of CMD. -/
theorem witness_CompletionWritesTheCodes :
    nextHas (step (writes 0x00000023#32 State.reset)) (fun t => t.cc.result != .ok) = true ∧
    nextHas (step (writes 0x00000011#32 State.reset)) (fun t => t.cc.count != 0#32) = true ∧
    nextHas (step (pushInput (.link (.err 0x6E#32)) (waiting .recv .established 1#32 1#32 .ok)))
      (fun t => t.cc.ioerr != 0#32 && !t.cc.busy) = true ∧
    nextHas (step (pushInput (.bus (.writeWord 0 0x00000023#32)) State.reset))
      (fun t => t.cc.result != .ok) = true ∧
    (writes 0x00000023#32 State.reset).env.inbox.head? ≠ some .reset := by decide

/-- For CommandsWriteOnlyTheirRegisters: an instruction that answers a next state, and the words of
two commands. -/
theorem witness_CommandsWriteOnlyTheirRegisters :
    nextHas (exec .csumFin State.reset) (fun _ => true) = true ∧
    encode .csumFin = .command 0x00000004#32 ∧ encode .send = .command 0x00000024#32 := by decide

/-- CONNECT adds to the link's history and makes a draw; a taken datagram adds to the history; a
state with a draw and an answer ready, and one with neither. -/
theorem witness_LinkEventsAndDrawsComeFromTheFsm :
    nextHas (step (writes 0x00000021#32 (client .closed 0#32 0#32 7#32 .ok)))
      (fun t => t.env.trace != [] && t.env.drawCount != 0) = true ∧
    nextHas (step (offers [] (waiting .recv .established 1#32 1#32 .ok)))
      (fun t => t.env.trace != []) = true ∧
    (client .closed 0#32 0#32 7#32 .ok).env.draws = [7#32] ∧
    (client .closed 0#32 0#32 7#32 .ok).env.txAnswers ≠ [] ∧
    State.reset.env.draws = [] ∧ State.reset.env.txAnswers = [] := by decide

theorem witness_ResetInputAbandonsAll :
    (pushInput .reset (waiting .recv .established 1#32 1#32 .ok)).env.inbox = [.reset] := by decide

/-- BUF past BUFLEN differs, and what an instruction reads is the same. -/
theorem witness_UnreadBytesDoNotMatter :
    let s := withBuf (fromPeer 0x5010#16) State.reset
    let s' : State := { s with buf.bytes := Memory.write s.buf.bytes 20 0xAA#8 }
    s.cfg.Legal ∧ bufBytes s' = bufBytes s ∧ optBytes s' = optBytes s ∧
    payBytes s' = payBytes s ∧ s' ≠ s ∧
    nextHas (exec .decode s) (fun t => t.cc.result == .ok) = true := by decide

end Sys2Proof.Machine.Tests
end

section
/-! The invariant at reset (10_state.md R37; 70_reset_and_hazards.md R200). -/

namespace Sys2Proof.Machine

open Sys2Proof

theorem Config.standard_legal : Config.standard.Legal := by decide

/-- Nothing has been written to an array of a reset block (log 7). The parameters, the count of
resets and the outside agents are free, because `resetInput` keeps or changes them. -/
theorem arrayOf_reset (c : Config) (n : Nat) (e : Env) (a : Arr) :
    arrayOf { State.reset with cfg := c, epoch := n, env := e } a = [] := by
  cases a <;> rfl

/-- The registers at their reset values meet the invariant under every legal choice of the
parameters (log 1), whatever the outside agents hold. -/
theorem blockInv_reset {c : Config} (hc : c.Legal) (n : Nat) (e : Env) :
    BlockInv { State.reset with cfg := c, epoch := n, env := e } where
  cfgLegal := hc
  optlenLegal := Nat.zero_le _
  paylenLegal := Nat.zero_le _
  buflenLegal := Nat.zero_le _
  arraysWf a := by rw [arrayOf_reset]; rfl
  arraysWithin a := by rw [arrayOf_reset]; rfl
  idleState _ := ⟨rfl, .inl rfl⟩
  waitingState hbusy := absurd hbusy Bool.false_ne_true

/-- Settles O51: the reset state is the case of the default parameters. -/
theorem resetStateIsInvariant : Obligations.ResetStateIsInvariant :=
  blockInv_reset Config.standard_legal 0 State.reset.env

end Sys2Proof.Machine
end

section
/-! What a step and an instruction can do, said once: one inversion for the step, one for `exec`,
one for a turn of `wait_match`. The invariants below are case analyses over these. -/

namespace Sys2Proof.Machine

open Sys2Proof

/-! ### The commands -/

/-- What a command of an idle block can leave. The values that no invariant asks for (sums, counts,
the datagrams sent) are free here. -/
inductive CommandCase (s : State) : Instr → State → Prop
  /-- The errors that write nothing but what every completion writes. -/
  | failed (i : Instr) (c : Code) : CommandCase s i (raise c 0#32 s)
  | summed (i : Instr) (v : Word)
      (hi : i = .csumClr ∨ i = .csumAdd ∨ ∃ imm, i = .csumAddw imm) :
      CommandCase s i (done 0#32 { s with chk.sum := v })
  | csumFin (v : Half) : CommandCase s .csumFin (done 0#32 { s with chk.out := v })
  | csumSeg (v : Half) : CommandCase s .csumSeg (done 0#32 { s with seg.hdr.checksum := v })
  | decode (T : Segment) (f : Half) (hd : decodeAs f (bufBytes s) = .ok T) :
      CommandCase s .decode (done 0#32 (storeSegment T s))
  | encode (n : Word) (hl : segLen s ≤ s.cfg.maxSeg) :
      CommandCase s .encode (done n (storeBuf (encodeSegment (segOf s)) s))
  | ctxLoad : CommandCase s .ctxLoad (done 0#32 (setConn .established s))
  | connectFailed (B : List Byte) (e : Word) :
      CommandCase s .connect (failClosed .eIo e (linkTx B (connectStart s)))
  | connectWaits (B : List Byte) :
      CommandCase s .connect (enterWait .connect (linkTx B (connectStart s)))
  | acceptFailed (B : List Byte) (e : Word) :
      CommandCase s .accept (failClosed .eIo e (linkTx B (acceptStart s)))
  | acceptWaits (B : List Byte) :
      CommandCase s .accept (enterWait .accept (linkTx B (acceptStart s)))
  | recvWaits (hs : s.ctx.state = .established) : CommandCase s .recv (enterWait .recv s)
  | sendFailed (B : List Byte) (e : Word) : CommandCase s .send (raise .eIo e (linkTx B s))
  | sendWaits (B : List Byte) (hs : s.ctx.state = .established) :
      CommandCase s .send (enterWait .send (sampleLen (linkTx B s)))
  | close (B : List Byte) : CommandCase s .close (done 0#32 (setConn .closed (linkTx B s)))

/-- What an instruction can do: a command is refused or runs, and a segment kind is a turn of
`wait_match` (log 10). -/
inductive ExecCase (i : Instr) (s : State) : State → Prop
  | refused (hb : s.cc.busy = true) : ExecCase i s (refuse s)
  | ran (t : State) (hb : s.cc.busy = false) (hc : CommandCase s i t) : ExecCase i s t
  | turned (f : Half) (hi : ∀ w, encode i ≠ .command w) : ExecCase i s (rxSegment f s)

/-- A command of a busy block is refused; of an idle one it runs. -/
theorem execCase_issue {i : Instr} {run : State → State} {s t : State}
    (h : Host.Outcome.next (issue run s) = (.next t : Host.Outcome State Fault Refusal))
    (hr : CommandCase s i (run s)) : ExecCase i s t := by
  obtain rfl := Host.Outcome.next.inj h
  cases hb : s.cc.busy with
  | true =>
    rw [issue_busy run hb]
    exact .refused hb
  | false =>
    rw [issue_idle run hb]
    exact .ran _ hb hr

theorem execCase_turn {i : Instr} {f : Half} {s t : State}
    (h : Host.Outcome.next (rxSegment f s) = (.next t : Host.Outcome State Fault Refusal))
    (hi : ∀ w, encode i ≠ .command w) : ExecCase i s t := by
  obtain rfl := Host.Outcome.next.inj h
  exact .turned f hi

/-- An FSM command runs in its STATE, and ends with E_STATE in another. -/
theorem commandCase_needState {i : Instr} {c : ConnState} {run : State → State} {s : State}
    (hr : s.ctx.state = c → CommandCase s i (run s)) : CommandCase s i (needState c run s) := by
  by_cases hs : s.ctx.state = c
  · rw [needState_is run hs]
    exact hr hs
  · rw [needState_other run hs]
    exact .failed i .eState

/-- A command that transmits goes on by the link's answer. -/
theorem commandCase_transmit {i : Instr} {B : List Byte} {onErr : Word → State → State}
    {onOk : State → State} {s u : State} (hok : CommandCase s i (onOk (linkTx B u)))
    (herr : ∀ e, CommandCase s i (onErr e (linkTx B u))) :
    CommandCase s i (transmit B onErr onOk u) := by
  obtain ⟨-, h⟩ | ⟨e, -, h⟩ := transmit_cases B onErr onOk u
  · rwa [h]
  · rw [h]
    exact herr e

/-- Every outcome of `exec` is one of the cases. -/
theorem exec_case {i : Instr} {s t : State} (h : exec i s = .next t) : ExecCase i s t := by
  cases i with
  | csumClr => exact execCase_issue h (.summed _ _ (.inl rfl))
  | csumAdd => exact execCase_issue h (.summed _ _ (.inr (.inl rfl)))
  | csumAddw imm => exact execCase_issue h (.summed _ _ (.inr (.inr ⟨imm, rfl⟩)))
  | csumFin => exact execCase_issue h (.csumFin _)
  | csumSeg =>
    refine execCase_issue h ?_
    split_ifs
    · exact .failed _ _
    · exact .csumSeg _
  | decode =>
    refine execCase_issue h ?_
    split
    · exact .failed _ _
    · exact .decode _ _ ‹_›
  | encode =>
    refine execCase_issue h ?_
    split_ifs with hl
    · exact .failed _ _
    · exact .encode _ (Nat.not_lt.1 hl)
  | ctxLoad => exact execCase_issue h (commandCase_needState fun _ => .ctxLoad)
  | connect =>
    exact execCase_issue h (commandCase_needState fun _ =>
      commandCase_transmit (.connectWaits _) fun e => .connectFailed _ e)
  | accept =>
    exact execCase_issue h (commandCase_needState fun _ =>
      commandCase_transmit (.acceptWaits _) fun e => .acceptFailed _ e)
  | recv => exact execCase_issue h (commandCase_needState .recvWaits)
  | send =>
    exact execCase_issue h (commandCase_needState fun hs =>
      commandCase_transmit (.sendWaits _ hs) fun e => .sendFailed _ e)
  | close => exact execCase_issue h (commandCase_needState fun _ => .close _)
  | segSyn hl rsv => exact execCase_turn h fun _ => nofun
  | segSynAck hl rsv => exact execCase_turn h fun _ => nofun
  | segAck hl rsv => exact execCase_turn h fun _ => nofun
  | segPshAck hl rsv => exact execCase_turn h fun _ => nofun
  | segFinAck hl rsv => exact execCase_turn h fun _ => nofun

/-- The flags field of a datagram decodes to a segment kind alone, which is a turn of
`wait_match`. -/
theorem exec_of_decodeFlags {mask g : Half} {i : Instr} {s t : State}
    (hd : decodeFlags mask g = .ok i) (h : exec i s = .next t) : ∃ f, t = rxSegment f s := by
  unfold decodeFlags at hd
  split at hd
  · cases hd
  · rename_i k _
    obtain rfl := Except.ok.inj hd
    cases k <;> exact ⟨_, (Host.Outcome.next.inj h).symm⟩

/-! ### A waiting command -/

/-- What a waiting command can make of the matching segment in S. -/
inductive DecisionCase (s : State) : State → Prop
  /-- RECV skips another kind, and a CUR that does not wait decides nothing (log 15). -/
  | skips : DecisionCase s s
  | refusesHandshake : DecisionCase s (failClosed .eHandshake 0#32 s)
  | connects (B : List Byte) :
      DecisionCase s (done 0#32 (setConn .established (linkTx B (adoptCounters 1#32 s))))
  | connectFails (B : List Byte) (e : Word) :
      DecisionCase s (failClosed .eIo e (linkTx B (adoptCounters 1#32 s)))
  | accepts : DecisionCase s (done 0#32 (setConn .established (adoptCounters 0#32 s)))
  | receives (n d : Word) (B : List Byte) (hc : s.hid.cur = .recv) :
      DecisionCase s (done n (linkTx B (adoptCounters d s)))
  | receiveFails (d : Word) (B : List Byte) (e : Word) (hc : s.hid.cur = .recv) :
      DecisionCase s (raise .eIo e (linkTx B (adoptCounters d s)))
  | sends (n : Word) (hc : s.hid.cur = .send) : DecisionCase s (done n (adoptCounters 0#32 s))
  | breaksPipe (hc : s.hid.cur = .send) : DecisionCase s (raise .eBrokenPipe 0#32 s)

theorem decisionCase_transmit {B : List Byte} {onErr : Word → State → State}
    {onOk : State → State} {s u : State} (hok : DecisionCase s (onOk (linkTx B u)))
    (herr : ∀ e, DecisionCase s (onErr e (linkTx B u))) :
    DecisionCase s (transmit B onErr onOk u) := by
  obtain ⟨-, h⟩ | ⟨e, -, h⟩ := transmit_cases B onErr onOk u
  · rwa [h]
  · rw [h]
    exact herr e

theorem connectDecide_case (s : State) : DecisionCase s (connectDecide s) := by
  unfold connectDecide
  split_ifs
  · exact decisionCase_transmit (.connects _) (.connectFails _)
  · exact .refusesHandshake

theorem acceptDecide_case (s : State) : DecisionCase s (acceptDecide s) := by
  unfold acceptDecide
  split_ifs
  · exact .accepts
  · exact .refusesHandshake

theorem recvDecide_case {s : State} (hc : s.hid.cur = .recv) : DecisionCase s (recvDecide s) := by
  unfold recvDecide
  split_ifs
  · exact decisionCase_transmit (.receives _ _ _ hc) fun e => .receiveFails _ _ e hc
  · exact .skips

theorem sendDecide_case {s : State} (hc : s.hid.cur = .send) : DecisionCase s (sendDecide s) := by
  unfold sendDecide
  split_ifs
  · exact .sends _ hc
  · exact .breaksPipe hc

theorem decideMatch_case (s : State) : DecisionCase s (decideMatch s) := by
  unfold decideMatch
  split
  · exact connectDecide_case s
  · exact acceptDecide_case s
  · exact recvDecide_case ‹_›
  · exact sendDecide_case ‹_›
  all_goals exact .skips

/-- How a failed wait ends. -/
theorem failWait_cases (c : Code) (e : Word) (s : State) :
    failWait c e s = failClosed c e s ∨
      (waitState s.hid.cur = some .established ∧ failWait c e s = raise c e s) ∨
      (waitState s.hid.cur = none ∧ failWait c e s = s) := by
  cases hc : s.hid.cur with
  | connect => exact .inl (failWait_handshake c e (.inl hc))
  | accept => exact .inl (failWait_handshake c e (.inr hc))
  | recv => exact .inr (.inl ⟨rfl, failWait_transfer c e (.inl hc)⟩)
  | send => exact .inr (.inl ⟨rfl, failWait_transfer c e (.inr hc)⟩)
  | _ => exact .inr (.inr ⟨rfl, by simp [failWait, hc]⟩)

/-! ### The step -/

/-- The next input is this host access, by name or by its offset (20_memory.md R47, R48). -/
def HostHead (op : HostOp) (s : State) : Prop :=
  s.env.inbox.head? = some (.host op) ∨
    ∃ b, s.env.inbox.head? = some (.bus b) ∧ busToHost s.cfg b = some op

/-- What a step can do. The answer to the host, which no rule of the block reads, is free here. -/
inductive StepCase (s : State) : State → Prop
  | nothing : StepCase s s
  | refused (r : Reply) : StepCase s (answer r (refuse (popInput s)))
  | access (op : HostOp) (r : Reply) (hop : ∀ w, op ≠ .write .cmd w) :
      StepCase s (answer r (hostAccess op (popInput s)))
  | illegal (w : Word) (r : Reply) (hi : HostHead (.write .cmd w) s) (hb : s.cc.busy = false) :
      StepCase s (answer r (raise .eIllegalCmd 0#32 (popInput s)))
  | command (w : Word) (i : Instr) (t : State) (hi : HostHead (.write .cmd w) s)
      (hb : s.cc.busy = false) (hd : decodeCommand w = .ok i)
      (ht : exec i (answer .ok (popInput s)) = .next t) : StepCase s t
  | passed : StepCase s (popInput s)
  | linkError (e : Word) (hi : s.env.inbox.head? = some (.link (.err e)))
      (hp : s.hid.phase = .rxWait) :
      StepCase s (failWait .eIo e (takeEvent (.err e) (popInput s)))
  | datagram (B : List Byte) (f : Half) (hi : s.env.inbox.head? = some (.link (.dgram B)))
      (hp : s.hid.phase = .rxWait) : StepCase s (rxSegment f (taken B s))
  | reset (hi : s.env.inbox.head? = some .reset) : StepCase s (resetInput (popInput s))

/-- What the fetch makes of a host access. -/
inductive HostCase (op : HostOp) (s : State) : Todo → Prop
  | refused : HostCase op s (.settled (refuse s))
  | access (hop : ∀ w, op ≠ .write .cmd w) : HostCase op s (.settled (hostAccess op s))
  | illegal (w : Word) (hop : op = .write .cmd w) (hb : s.cc.busy = false) :
      HostCase op s (.settled (raise .eIllegalCmd 0#32 (answer .ok s)))
  | command (w : Word) (i : Instr) (hop : op = .write .cmd w) (hb : s.cc.busy = false)
      (hd : decodeCommand w = .ok i) : HostCase op s (.run i (answer .ok s))

theorem fetchHost_case (op : HostOp) (s : State) : HostCase op s (fetchHost op s) := by
  by_cases hop : ∃ w, op = .write .cmd w
  · obtain ⟨w, rfl⟩ := hop
    show HostCase _ s (fetchCommand w s)
    unfold fetchCommand
    split_ifs with hb
    · exact .refused
    · have hb : s.cc.busy = false := by simpa using hb
      split
      · exact .illegal w rfl hb
      · exact .command w _ rfl hb ‹_›
  · have hop : ∀ w, op ≠ .write .cmd w := fun w h => hop ⟨w, h⟩
    rw [fetchHost_settled hop]
    exact .access hop

/-- The bus gives an answer of its own or leaves the access's. -/
theorem busAnswer_eq_answer (b : BusOp) (s : State) : ∃ r, busAnswer b s = answer r s :=
  busAnswer_cases b s

/-- An illegal word written to CMD: the answer to the write stands beside the completion. -/
theorem answer_raise_answer (r q : Reply) (c : Code) (e : Word) (s : State) :
    answer r (raise c e (answer q s)) = answer r (raise c e s) := by
  cases c <;> rfl

theorem HostCase.stepCase_settled {op : HostOp} {s u : State} (head : HostHead op s)
    (hc : HostCase op (popInput s) (.settled u)) (r : Reply) : StepCase s (answer r u) := by
  cases hc with
  | refused => exact .refused r
  | access hop => exact .access op r hop
  | illegal w hop hb =>
    rw [answer_raise_answer]
    exact .illegal w r (hop ▸ head) hb

theorem HostCase.stepCase_run {op : HostOp} {s t u : State} {i : Instr} (head : HostHead op s)
    (hc : HostCase op (popInput s) (.run i u)) (h : exec i u = .next t) : StepCase s t := by
  cases hc with
  | command w _ hop hb hd => exact .command w i t (hop ▸ head) hb hd h

theorem stepCase_host {s t : State} {op : HostOp} {rest : List Input}
    (hi : s.env.inbox = .host op :: rest) (h : step s = .next t) : StepCase s t := by
  have head : HostHead op s := .inl (by rw [hi]; rfl)
  have hc := fetchHost_case op (popInput s)
  rw [step, fetch_host hi] at h
  cases hf : fetchHost op (popInput s) with
  | nothing => rw [hf] at hc; cases hc
  | settled u =>
    rw [hf] at h hc
    obtain rfl := Host.Outcome.next.inj h
    exact hc.stepCase_settled head u.env.reply
  | run i u =>
    rw [hf] at h hc
    exact hc.stepCase_run head h

theorem stepCase_bus {s t : State} {b : BusOp} {rest : List Input}
    (hi : s.env.inbox = .bus b :: rest) (h : step s = .next t) : StepCase s t := by
  rw [step, fetch_bus hi, fetchBus] at h
  cases hb : busToHost (popInput s).cfg b with
  | none =>
    rw [hb] at h
    obtain rfl := Host.Outcome.next.inj h
    obtain ⟨r, hr⟩ := busAnswer_eq_answer b (refuse (popInput s))
    rw [hr]
    exact .refused r
  | some op =>
    have head : HostHead op s := .inr ⟨b, by rw [hi]; rfl, hb⟩
    have hc := fetchHost_case op (popInput s)
    rw [hb] at h
    dsimp only at h
    cases hf : fetchHost op (popInput s) with
    | nothing => rw [hf] at hc; cases hc
    | settled u =>
      rw [hf] at h hc
      obtain rfl := Host.Outcome.next.inj h
      obtain ⟨r, hr⟩ := busAnswer_eq_answer b u
      rw [hr]
      exact hc.stepCase_settled head r
    | run i u =>
      rw [hf] at h hc
      exact hc.stepCase_run head h

/-- A segment kind is a turn of `wait_match`, so every datagram taken is one. -/
theorem stepCase_dgram {s t : State} {B : List Byte} {rest : List Input}
    (hi : s.env.inbox = .link (.dgram B) :: rest) (hp : s.hid.phase = .rxWait)
    (h : step s = .next t) : StepCase s t := by
  have head : s.env.inbox.head? = some (.link (.dgram B)) := by rw [hi]; rfl
  obtain hs | ⟨i, hd, -, -, hs⟩ := step_datagram hi hp
  · obtain rfl := Host.Outcome.next.inj (hs.symm.trans h)
    exact .datagram B _ head hp
  · obtain ⟨f, rfl⟩ := exec_of_decodeFlags hd (hs.symm.trans h)
    exact .datagram B f head hp

/-- Every outcome of a step is one of the cases. -/
theorem step_case {s t : State} (h : step s = .next t) : StepCase s t := by
  cases hi : s.env.inbox with
  | nil =>
    obtain rfl := Host.Outcome.next.inj ((step_nothing (fetch_nil hi)).symm.trans h)
    exact .nothing
  | cons input rest =>
    cases input with
    | host op => exact stepCase_host hi h
    | bus b => exact stepCase_bus hi h
    | link ev =>
      cases hp : s.hid.phase with
      | idle =>
        have hs : step s = .next (popInput s) :=
          step_settled (by simp [fetch_link hi, fetchLink, hp])
        obtain rfl := Host.Outcome.next.inj (hs.symm.trans h)
        exact .passed
      | rxWait =>
        cases ev with
        | err e =>
          have hs : step s = .next (failWait .eIo e (takeEvent (.err e) (popInput s))) :=
            step_settled (by simp [fetch_link hi, fetchLink, hp])
          obtain rfl := Host.Outcome.next.inj (hs.symm.trans h)
          exact .linkError e (by rw [hi]; rfl) hp
        | dgram B => exact stepCase_dgram hi hp h
    | reset =>
      obtain rfl := Host.Outcome.next.inj ((step_settled (fetch_reset hi)).symm.trans h)
      exact .reset (by rw [hi]; rfl)

end Sys2Proof.Machine
end

section
/-! Every step keeps the invariant. BlockInv has two halves: what is stored (the parameters, the
lengths, the arrays) and where the block stands (BUSY, PHASE, CUR, STATE). Each operation on the
store keeps the first half; each end of a command (completion, wait, going on) gives the second. -/

namespace Sys2Proof.Machine

open Sys2Proof

/-! ### The store -/

/-- Canonical and inside a capacity. -/
structure Memory.Fits (m : Memory) (cap : Nat) : Prop where
  wf : Memory.wf m = true
  within : Memory.within m cap = true

theorem Memory.Fits.write {m : Memory} {cap i : Nat} (h : m.Fits cap) (b : Byte) (hi : i < cap) :
    (m.write i b).Fits cap :=
  ⟨Memory.wf_write m i b h.wf, Memory.within_write m i cap b h.within hi⟩

theorem Memory.Fits.writeBytes {m : Memory} {cap : Nat} (h : m.Fits cap) {B : List Byte}
    (hB : B.length ≤ cap) : (m.writeBytes 0 B).Fits cap :=
  ⟨Memory.wf_writeBytes B m 0 h.wf, Memory.within_writeBytes B m 0 cap h.within (by omega)⟩

/-- The first six clauses of BlockInv. -/
structure StoreInv (s : State) : Prop where
  cfgLegal : s.cfg.Legal
  optlenLegal : s.seg.optlen.toNat ≤ maxOpt
  paylenLegal : s.seg.paylen.toNat ≤ s.cfg.maxPay
  buflenLegal : s.buf.len.toNat ≤ s.cfg.maxSeg
  arraysFit : ∀ a, (arrayOf s a).Fits (s.cfg.capacity a)

theorem BlockInv.store {s : State} (h : BlockInv s) : StoreInv s :=
  ⟨h.cfgLegal, h.optlenLegal, h.paylenLegal, h.buflenLegal,
    fun a => ⟨h.arraysWf a, h.arraysWithin a⟩⟩

theorem arrayOf_congr {s t : State} (hs : t.seg = s.seg) (hb : t.buf = s.buf) (a : Arr) :
    arrayOf t a = arrayOf s a := by
  cases a <;> simp [arrayOf, hs, hb]

/-- The store is in the parameters, S and BUF. -/
theorem StoreInv.congr {s t : State} (h : StoreInv s) (hc : t.cfg = s.cfg) (hs : t.seg = s.seg)
    (hb : t.buf = s.buf) : StoreInv t where
  cfgLegal := hc ▸ h.cfgLegal
  optlenLegal := hs ▸ h.optlenLegal
  paylenLegal := hc ▸ hs ▸ h.paylenLegal
  buflenLegal := hc ▸ hb ▸ h.buflenLegal
  arraysFit a := arrayOf_congr hs hb a ▸ hc ▸ h.arraysFit a

theorem StoreInv.linkTx {s : State} (h : StoreInv s) (B : List Byte) : StoreInv (linkTx B s) :=
  h.congr rfl rfl rfl

theorem StoreInv.setConn {s : State} (h : StoreInv s) (c : ConnState) : StoreInv (setConn c s) :=
  h.congr rfl rfl rfl

theorem StoreInv.adoptCounters {s : State} (h : StoreInv s) (d : Word) :
    StoreInv (adoptCounters d s) :=
  h.congr rfl rfl rfl

theorem StoreInv.connectStart {s : State} (h : StoreInv s) : StoreInv (connectStart s) :=
  h.congr rfl rfl rfl

theorem StoreInv.acceptStart {s : State} (h : StoreInv s) : StoreInv (acceptStart s) :=
  h.congr rfl rfl rfl

theorem StoreInv.sampleLen {s : State} (h : StoreInv s) : StoreInv (sampleLen s) :=
  h.congr rfl rfl rfl

theorem StoreInv.setChecksum {s : State} (h : StoreInv s) (v : Half) :
    StoreInv { s with seg.hdr.checksum := v } where
  cfgLegal := h.cfgLegal
  optlenLegal := h.optlenLegal
  paylenLegal := h.paylenLegal
  buflenLegal := h.buflenLegal
  arraysFit
    | .buf => h.arraysFit .buf
    | .opt => h.arraysFit .opt
    | .pay => h.arraysFit .pay

/-- A length register holds a length that is within its limit. -/
theorem toNat_ofNat_le {w n limit : Nat} (h : n ≤ limit) : (BitVec.ofNat w n).toNat ≤ limit :=
  (BitVec.toNat_ofNat n w ▸ Nat.mod_le n _).trans h

theorem StoreInv.storeSegment {s : State} (h : StoreInv s) {T : Segment}
    (ho : T.opt.length ≤ maxOpt) (hp : T.pay.length ≤ s.cfg.maxPay) :
    StoreInv (storeSegment T s) where
  cfgLegal := h.cfgLegal
  optlenLegal := toNat_ofNat_le ho
  paylenLegal := toNat_ofNat_le hp
  buflenLegal := h.buflenLegal
  arraysFit
    | .buf => h.arraysFit .buf
    | .opt => (h.arraysFit .opt).writeBytes ho
    | .pay => (h.arraysFit .pay).writeBytes hp

theorem StoreInv.storeBuf {s : State} (h : StoreInv s) {B : List Byte}
    (hB : B.length ≤ s.cfg.maxSeg) : StoreInv (storeBuf B s) where
  cfgLegal := h.cfgLegal
  optlenLegal := h.optlenLegal
  paylenLegal := h.paylenLegal
  buflenLegal := toNat_ofNat_le hB
  arraysFit
    | .buf => (h.arraysFit .buf).writeBytes hB
    | .opt => h.arraysFit .opt
    | .pay => h.arraysFit .pay

theorem loadDatagram_eq_storeBuf (B : List Byte) (s : State) :
    loadDatagram B s = storeBuf (B.take s.cfg.maxSeg) s := rfl

theorem StoreInv.loadDatagram {s : State} (h : StoreInv s) (B : List Byte) :
    StoreInv (loadDatagram B s) := by
  rw [loadDatagram_eq_storeBuf]
  exact h.storeBuf (by rw [List.length_take]; exact Nat.min_le_left _ _)

/-- A segment decoded from BUF fits S. -/
theorem StoreInv.decoded {s : State} (h : StoreInv s) {f : Half} {T : Segment}
    (hd : decodeAs f (bufBytes s) = .ok T) : StoreInv (Machine.storeSegment T s) := by
  have hb : (bufBytes s).length ≤ s.cfg.maxSeg := by
    rw [bufBytes, length_readBytes]
    exact h.buflenLegal
  have hl : 20 ≤ hlen f := ((decodeAs_ok_iff f _ T).1 hd).2.1
  have hp := length_pay_of_decodeAs hd
  exact h.storeSegment (length_opt_of_decodeAs hd).2 (by rw [Config.maxPay]; omega)

/-- The segment S holds, encoded to BUF where it fits (41_codec.md R113). -/
theorem StoreInv.encoded {s : State} (h : StoreInv s) (hl : segLen s ≤ s.cfg.maxSeg) :
    StoreInv (Machine.storeBuf (encodeSegment (segOf s)) s) :=
  h.storeBuf (by rwa [length_encodeSegment, length_segOf])

theorem arrayOf_writeArr (s : State) (a c : Arr) (i : Nat) (b : Byte) :
    arrayOf (writeArr s a i b) c = if c = a then (arrayOf s c).write i b else arrayOf s c := by
  cases a <;> cases c <;> rfl

theorem StoreInv.writeArr {s : State} (h : StoreInv s) {a : Arr} {i : Nat} (b : Byte)
    (hi : i < s.cfg.capacity a) : StoreInv (writeArr s a i b) where
  cfgLegal := by simpa using h.cfgLegal
  optlenLegal := by simpa using h.optlenLegal
  paylenLegal := by simpa using h.paylenLegal
  buflenLegal := by simpa using h.buflenLegal
  arraysFit c := by
    rw [arrayOf_writeArr, writeArr_cfg]
    split_ifs with hc
    · exact (h.arraysFit c).write b (hc ▸ hi)
    · exact h.arraysFit c

/-- A register write within the register's limit (R20, R21, R23). -/
theorem StoreInv.setReg {s : State} (h : StoreInv s) {r : Reg} {w : Word}
    (hw : w.toNat ≤ regLimit s.cfg r) : StoreInv (setReg s w r) where
  cfgLegal := by simpa using h.cfgLegal
  optlenLegal := by
    cases r with
    | sOptlen => exact (BitVec.toNat_setWidth 6 w ▸ Nat.mod_le _ _).trans hw
    | _ => exact h.optlenLegal
  paylenLegal := by
    cases r with
    | sPaylen => exact (BitVec.toNat_setWidth 16 w ▸ Nat.mod_le _ _).trans hw
    | _ => exact h.paylenLegal
  buflenLegal := by
    cases r with
    | buflen => exact (BitVec.toNat_setWidth 16 w ▸ Nat.mod_le _ _).trans hw
    | _ => exact h.buflenLegal
  arraysFit a := by
    rw [setReg_arrayOf, setReg_cfg]
    exact h.arraysFit a

/-! ### Where the block stands -/

/-- STATE where no command is in progress (42_fsm.md R131). -/
def AtRest (s : State) : Prop := s.ctx.state = .closed ∨ s.ctx.state = .established

theorem BlockInv.atRest {s : State} (h : BlockInv s) (hb : s.cc.busy = false) : AtRest s :=
  (h.idleState hb).2

/-- A wait is of one of the four waiting commands, in its STATE. -/
theorem BlockInv.waitState_of_rxWait {s : State} (h : BlockInv s) (hp : s.hid.phase = .rxWait) :
    waitState s.hid.cur = some s.ctx.state := by
  cases hb : s.cc.busy with
  | false => exact absurd ((h.idleState hb).1.symm.trans hp) nofun
  | true => exact (h.waitingState hb).2

/-- The invariant from its two halves. -/
theorem StoreInv.blockInv {s : State} (h : StoreInv s)
    (hi : s.cc.busy = false → s.hid.phase = .idle ∧ AtRest s)
    (hw : s.cc.busy = true → s.hid.phase = .rxWait ∧ waitState s.hid.cur = some s.ctx.state) :
    BlockInv s where
  cfgLegal := h.cfgLegal
  optlenLegal := h.optlenLegal
  paylenLegal := h.paylenLegal
  buflenLegal := h.buflenLegal
  arraysWf a := (h.arraysFit a).wf
  arraysWithin a := (h.arraysFit a).within
  idleState := hi
  waitingState := hw

/-- The invariant of an idle block. -/
theorem StoreInv.blockInv_idle {s : State} (h : StoreInv s) (hi : Idle s) (hs : AtRest s) :
    BlockInv s :=
  h.blockInv (fun _ => ⟨hi.2, hs⟩) fun hb => absurd (hi.1.symm.trans hb) nofun

/-- Every completion leaves the invariant where it leaves STATE at rest. -/
theorem StoreInv.raise {s : State} (h : StoreInv s) (hs : AtRest s) (c : Code) (e : Word) :
    BlockInv (raise c e s) :=
  (h.congr (raise_cfg c e s) (raise_seg c e s) (raise_buf c e s)).blockInv_idle
    ⟨raise_cc_busy c e s, raise_hid_phase c e s⟩ (by rwa [AtRest, raise_ctx])

theorem StoreInv.done {s : State} (h : StoreInv s) (hs : AtRest s) (n : Word) :
    BlockInv (done n s) :=
  StoreInv.blockInv_idle (h.congr rfl rfl rfl) ⟨rfl, rfl⟩ hs

theorem StoreInv.failClosed {s : State} (h : StoreInv s) (c : Code) (e : Word) :
    BlockInv (failClosed c e s) :=
  (h.setConn .closed).raise (.inl rfl) c e

theorem StoreInv.enterWait {s : State} (h : StoreInv s) {c : Cmd}
    (hw : waitState c = some s.ctx.state) : BlockInv (enterWait c s) :=
  StoreInv.blockInv (h.congr rfl rfl rfl) nofun fun _ => ⟨rfl, hw⟩

/-- What does not move BUSY, PHASE, CUR or STATE, and keeps the store, keeps the invariant. -/
theorem BlockInv.of_store {s t : State} (h : BlockInv s) (ht : StoreInv t)
    (hb : t.cc.busy = s.cc.busy) (hh : t.hid = s.hid) (hs : t.ctx.state = s.ctx.state) :
    BlockInv t := by
  refine ht.blockInv ?_ ?_
  · rw [AtRest, hb, hh, hs]
    exact h.idleState
  · rw [hb, hh, hs]
    exact h.waitingState

theorem BlockInv.refuse {s : State} (h : BlockInv s) : BlockInv (refuse s) :=
  h.of_store (h.store.congr rfl rfl rfl) rfl rfl rfl

theorem BlockInv.answer {s : State} (h : BlockInv s) (r : Reply) : BlockInv (answer r s) :=
  h.of_store (h.store.congr rfl rfl rfl) rfl rfl rfl

theorem BlockInv.popInput {s : State} (h : BlockInv s) : BlockInv (popInput s) :=
  h.of_store (h.store.congr rfl rfl rfl) rfl rfl rfl

theorem BlockInv.takeEvent {s : State} (h : BlockInv s) (ev : LinkEvent) :
    BlockInv (takeEvent ev s) :=
  h.of_store (h.store.congr rfl rfl rfl) rfl rfl rfl

theorem BlockInv.taken {s : State} (h : BlockInv s) (B : List Byte) : BlockInv (taken B s) :=
  let h' := h.popInput.takeEvent (.dgram B)
  h'.of_store (h'.store.loadDatagram B) rfl rfl rfl

/-! ### Host accesses -/

theorem BlockInv.hostWrite {s : State} (h : BlockInv s) (r : Reg) (w : Word) :
    BlockInv (hostWrite r w s) := by
  unfold Machine.hostWrite
  split
  · refine .answer ?_ _
    split_ifs
    · exact h.of_store (h.store.congr rfl rfl rfl) rfl rfl rfl
    · exact h
  · split_ifs with ha
    · obtain ⟨-, hw, -⟩ := (writeAllowed_iff s r w).1 ha
      exact .answer (h.of_store (h.store.setReg hw) (congrArg Completion.busy (setReg_cc s w r))
        (setReg_hid s w r) (setReg_ctx_state s w r)) _
    · exact h.refuse

theorem BlockInv.hostRead {s : State} (h : BlockInv s) (r : Reg) : BlockInv (hostRead r s) := by
  unfold Machine.hostRead
  split
  · exact h.answer _
  · exact h.refuse
  · split_ifs
    · exact h.refuse
    · exact h.answer _

theorem BlockInv.hostAccess {s : State} (h : BlockInv s) (op : HostOp) :
    BlockInv (hostAccess op s) := by
  cases op with
  | read r => exact h.hostRead r
  | write r w => exact h.hostWrite r w
  | readByte a i =>
    simp only [Machine.hostAccess, hostReadByte]
    split_ifs
    · exact h.refuse
    · exact h.answer _
    · exact h.refuse
  | writeByte a i b =>
    simp only [Machine.hostAccess, hostWriteByte]
    split_ifs with hb hi
    · exact h.refuse
    · exact .answer (h.of_store (h.store.writeArr b hi)
        (congrArg Completion.busy (writeArr_cc s a i b)) (writeArr_hid s a i b)
        (congrArg Context.state (writeArr_ctx s a i b))) _
    · exact h.refuse

/-! ### Instructions -/

/-- A command of an idle block keeps the invariant. -/
theorem BlockInv.command {i : Instr} {s t : State} (h : BlockInv s) (hb : s.cc.busy = false)
    (hc : CommandCase s i t) : BlockInv t := by
  have hr : AtRest s := h.atRest hb
  have hst : StoreInv s := h.store
  cases hc with
  | failed i c => exact hst.raise hr c _
  | summed i v hi => exact StoreInv.done (s := { s with chk.sum := v }) (hst.congr rfl rfl rfl) hr _
  | csumFin v => exact StoreInv.done (s := { s with chk.out := v }) (hst.congr rfl rfl rfl) hr _
  | csumSeg v => exact (hst.setChecksum v).done hr _
  | decode T f hd => exact (hst.decoded hd).done hr _
  | encode n hl => exact (hst.encoded hl).done hr n
  | ctxLoad => exact (hst.setConn _).done (.inr rfl) _
  | connectFailed B e => exact (hst.connectStart.linkTx B).failClosed _ e
  | connectWaits B => exact (hst.connectStart.linkTx B).enterWait rfl
  | acceptFailed B e => exact (hst.acceptStart.linkTx B).failClosed _ e
  | acceptWaits B => exact (hst.acceptStart.linkTx B).enterWait rfl
  | recvWaits hs => exact hst.enterWait (congrArg some hs.symm)
  | sendFailed B e => exact (hst.linkTx B).raise hr _ e
  | sendWaits B hs => exact (hst.linkTx B).sampleLen.enterWait (congrArg some hs.symm)
  | close B => exact ((hst.linkTx B).setConn _).done (.inl rfl) _

/-- RECV and SEND wait in Established. -/
theorem atRest_of_transfer {s : State} (hw : waitState s.hid.cur = some s.ctx.state)
    (hc : waitState s.hid.cur = some .established) : AtRest s :=
  .inr (Option.some.inj (hw.symm.trans hc))

/-- What a waiting command makes of a matching segment keeps the invariant. -/
theorem BlockInv.decision {s t : State} (h : BlockInv s)
    (hw : waitState s.hid.cur = some s.ctx.state) (hc : DecisionCase s t) : BlockInv t := by
  have hst : StoreInv s := h.store
  have transfer : s.hid.cur = .recv ∨ s.hid.cur = .send → AtRest s := fun hc =>
    atRest_of_transfer hw (by rcases hc with hc | hc <;> rw [hc] <;> rfl)
  cases hc with
  | skips => exact h
  | refusesHandshake => exact hst.failClosed _ _
  | connects B => exact (((hst.adoptCounters _).linkTx B).setConn _).done (.inr rfl) _
  | connectFails B e => exact ((hst.adoptCounters _).linkTx B).failClosed _ e
  | accepts => exact ((hst.adoptCounters _).setConn _).done (.inr rfl) _
  | receives n d B hc => exact ((hst.adoptCounters d).linkTx B).done (transfer (.inl hc)) n
  | receiveFails d B e hc =>
    exact ((hst.adoptCounters d).linkTx B).raise (transfer (.inl hc)) _ e
  | sends n hc => exact (hst.adoptCounters _).done (transfer (.inr hc)) n
  | breaksPipe hc => exact hst.raise (transfer (.inr hc)) _ _

theorem BlockInv.failWait {s : State} (h : BlockInv s) (hp : s.hid.phase = .rxWait) (c : Code)
    (e : Word) : BlockInv (failWait c e s) := by
  obtain hf | ⟨hc, hf⟩ | ⟨-, hf⟩ := failWait_cases c e s <;> rw [hf]
  · exact h.store.failClosed c e
  · exact h.store.raise (atRest_of_transfer (h.waitState_of_rxWait hp) hc) c e
  · exact h

/-- A turn of `wait_match` keeps the invariant. -/
theorem BlockInv.rxSegment {s : State} (h : BlockInv s) (f : Half) : BlockInv (rxSegment f s) := by
  obtain hf | ⟨hp, -, hf⟩ | ⟨T, hp, hd, hf⟩ := rxSegment_cases f s
  · rwa [hf]
  · rw [hf]
    exact h.failWait hp _ _
  · have stored : BlockInv (storeSegment T s) := h.of_store (h.store.decoded hd) rfl rfl rfl
    obtain hf | ⟨-, hf⟩ := hf <;> rw [hf]
    · exact stored
    · exact stored.decision (h.waitState_of_rxWait hp) (decideMatch_case _)

theorem BlockInv.exec {i : Instr} {s t : State} (h : BlockInv s) (hx : exec i s = .next t) :
    BlockInv t := by
  cases exec_case hx with
  | refused hb => exact h.refuse
  | ran _ hb hc => exact h.command hb hc
  | turned f hi => exact h.rxSegment f

/-- Every step keeps the invariant. -/
theorem BlockInv.step {s t : State} (h : BlockInv s) (hs : step s = .next t) : BlockInv t := by
  cases step_case hs with
  | nothing => exact h
  | refused r => exact h.popInput.refuse.answer r
  | access op r hop => exact (h.popInput.hostAccess op).answer r
  | illegal w r hi hb => exact (h.popInput.store.raise (h.popInput.atRest hb) _ _).answer r
  | command w i t hi hb hd ht => exact (h.popInput.answer .ok).exec ht
  | passed => exact h.popInput
  | linkError e hi hp => exact (h.popInput.takeEvent (.err e)).failWait hp _ e
  | datagram B f hi hp => exact (h.taken B).rxSegment f
  | reset hi => exact blockInv_reset h.cfgLegal _ _

/-- Settles O52, by the case analysis of `step_case` and `exec_case`. -/
theorem stepKeepsTheInvariant : Obligations.StepKeepsTheInvariant :=
  fun _ _ h hs => h.step hs

end Sys2Proof.Machine
end

section
/-! RESULT, COUNT, IOERR and the fall of BUSY: every instruction and every step either keeps the
codes or completes a command (10_state.md R26 to R31; 60_exceptions.md R182). -/

namespace Sys2Proof.Machine

open Sys2Proof

/-- From the completion registers `p`, no code has changed and BUSY has not fallen. -/
structure CodesKept (p : Completion) (t : State) : Prop where
  result : t.cc.result = p.result
  count : t.cc.count = p.count
  ioerr : t.cc.ioerr = p.ioerr
  busy : p.busy = true → t.cc.busy = true

/-- From the completion registers `p`, a command has completed. -/
structure Completes (p : Completion) (t : State) : Prop where
  busy : t.cc.busy = false
  phase : t.hid.phase = .idle
  count : t.cc.count ≠ p.count → t.cc.result = .ok
  ioerr : t.cc.ioerr ≠ p.ioerr → t.cc.result = .eIo

theorem codesKept_of_cc {p : Completion} {t : State} (h : t.cc = p) : CodesKept p t := by
  subst h
  exact ⟨rfl, rfl, rfl, id⟩

theorem CodesKept.answer {p : Completion} {t : State} (h : CodesKept p t) (r : Reply) :
    CodesKept p (answer r t) :=
  ⟨h.result, h.count, h.ioerr, h.busy⟩

theorem Completes.answer {p : Completion} {t : State} (h : Completes p t) (r : Reply) :
    Completes p (answer r t) :=
  ⟨h.busy, h.phase, h.count, h.ioerr⟩

theorem codesKept_refuse {p : Completion} {s : State} (h : s.cc = p) : CodesKept p (refuse s) :=
  h ▸ ⟨rfl, rfl, rfl, id⟩

theorem codesKept_hostAccess (op : HostOp) (s : State) : CodesKept s.cc (hostAccess op s) := by
  have h := hostAccess_cc op s
  exact ⟨by rw [h], by rw [h], by rw [h], by rw [h]; exact id⟩

theorem codesKept_enterWait {p : Completion} {s : State} {c : Cmd} (h : s.cc = p) :
    CodesKept p (enterWait c s) :=
  h ▸ ⟨rfl, rfl, rfl, fun _ => rfl⟩

theorem completes_raise {p : Completion} {s : State} {c : Code} {e : Word} (h : s.cc = p) :
    Completes p (raise c e s) where
  busy := raise_cc_busy c e s
  phase := raise_hid_phase c e s
  count hn := absurd (h ▸ raise_cc_count c e s) hn
  ioerr hn := by
    rw [raise_cc_ioerr] at hn
    rw [raise_cc_result]
    exact of_not_not fun hc => hn (h ▸ if_neg hc)

theorem completes_failClosed {p : Completion} {s : State} {c : Code} {e : Word} (h : s.cc = p) :
    Completes p (failClosed c e s) :=
  completes_raise (s := setConn .closed s) h

theorem completes_done {p : Completion} {s : State} {n : Word} (h : s.cc = p) :
    Completes p (done n s) where
  busy := rfl
  phase := rfl
  count _ := rfl
  ioerr hn := absurd (h ▸ rfl) hn

theorem CommandCase.codes {i : Instr} {s t : State} (hc : CommandCase s i t) :
    CodesKept s.cc t ∨ Completes s.cc t := by
  cases hc with
  | failed i c => exact .inr (completes_raise rfl)
  | connectFailed B e => exact .inr (completes_failClosed rfl)
  | acceptFailed B e => exact .inr (completes_failClosed rfl)
  | sendFailed B e => exact .inr (completes_raise rfl)
  | connectWaits B => exact .inl (codesKept_enterWait rfl)
  | acceptWaits B => exact .inl (codesKept_enterWait rfl)
  | recvWaits hs => exact .inl (codesKept_enterWait rfl)
  | sendWaits B hs => exact .inl (codesKept_enterWait rfl)
  | _ => exact .inr (completes_done rfl)

theorem DecisionCase.codes {p : Completion} {s t : State} (hc : DecisionCase s t) (h : s.cc = p) :
    CodesKept p t ∨ Completes p t := by
  cases hc with
  | skips => exact .inl (codesKept_of_cc h)
  | refusesHandshake => exact .inr (completes_failClosed h)
  | connectFails B e => exact .inr (completes_failClosed h)
  | receiveFails d B e hc => exact .inr (completes_raise h)
  | breaksPipe hc => exact .inr (completes_raise h)
  | _ => exact .inr (completes_done h)

theorem failWait_codes {p : Completion} {s : State} {c : Code} {e : Word} (h : s.cc = p) :
    CodesKept p (failWait c e s) ∨ Completes p (failWait c e s) := by
  obtain hf | ⟨-, hf⟩ | ⟨-, hf⟩ := failWait_cases c e s <;> rw [hf]
  · exact .inr (completes_failClosed h)
  · exact .inr (completes_raise h)
  · exact .inl (codesKept_of_cc h)

theorem rxSegment_codes {p : Completion} {s : State} {f : Half} (h : s.cc = p) :
    CodesKept p (rxSegment f s) ∨ Completes p (rxSegment f s) := by
  obtain hf | ⟨-, -, hf⟩ | ⟨T, -, -, hf | ⟨-, hf⟩⟩ := rxSegment_cases f s <;> rw [hf]
  · exact .inl (codesKept_of_cc h)
  · exact failWait_codes h
  · exact .inl (codesKept_of_cc h)
  · exact (decideMatch_case _).codes h

theorem exec_codes {i : Instr} {s t : State} (h : exec i s = .next t) :
    CodesKept s.cc t ∨ Completes s.cc t := by
  cases exec_case h with
  | refused hb => exact .inl (codesKept_refuse rfl)
  | ran _ hb hc => exact hc.codes
  | turned f hi => exact rxSegment_codes rfl

/-- The block is idle and the next input writes CMD, by name or at its offset (R26). -/
def Commanded (s : State) : Prop :=
  s.cc.busy = false ∧ ∃ w,
    s.env.inbox.head? = some (.host (.write .cmd w)) ∨
    s.env.inbox.head? = some (.bus (.writeWord 0 w))

/-- A command waits and the next input is a link event (R31, R51). -/
def LinkOffers (s : State) : Prop :=
  s.hid.phase = .rxWait ∧ ∃ ev, s.env.inbox.head? = some (.link ev)

/-- CMD is at offset 0 of the register map alone (R48). -/
theorem eq_writeWord_of_busToHost {cfg : Config} {b : BusOp} {w : Word}
    (h : busToHost cfg b = some (.write .cmd w)) : b = .writeWord 0 w := by
  cases b with
  | writeWord off v =>
    obtain ⟨r, hr, hw⟩ := Option.map_eq_some_iff.1 h
    obtain ⟨rfl, rfl⟩ := HostOp.write.inj hw
    have hoff : regOffset .cmd = off := by simpa using List.find?_some hr
    exact hoff ▸ rfl
  | readWord off => obtain ⟨r, -, hr⟩ := Option.map_eq_some_iff.1 h; cases hr
  | readByte off => obtain ⟨r, -, hr⟩ := Option.map_eq_some_iff.1 h; cases hr
  | writeByte off v => obtain ⟨r, -, hr⟩ := Option.map_eq_some_iff.1 h; cases hr

theorem HostHead.commanded {s : State} {w : Word} (h : HostHead (.write .cmd w) s)
    (hb : s.cc.busy = false) : Commanded s := by
  obtain h | ⟨b, hi, h⟩ := h
  · exact ⟨hb, w, .inl h⟩
  · exact ⟨hb, w, .inr (eq_writeWord_of_busToHost h ▸ hi)⟩

theorem taken_cc (B : List Byte) (s : State) : (taken B s).cc = s.cc := rfl

/-- A step that is no reset keeps the codes, or completes a command for a cause. -/
theorem step_codes {s t : State} (h : step s = .next t)
    (hr : s.env.inbox.head? ≠ some .reset) :
    CodesKept s.cc t ∨ ((Commanded s ∨ LinkOffers s) ∧ Completes s.cc t) := by
  cases step_case h with
  | nothing => exact .inl (codesKept_of_cc rfl)
  | refused r => exact .inl ((codesKept_refuse (popInput_cc s)).answer r)
  | access op r hop => exact .inl ((codesKept_hostAccess op (popInput s)).answer r)
  | illegal w r hi hb =>
    exact .inr ⟨.inl (hi.commanded hb), (completes_raise (popInput_cc s)).answer r⟩
  | command w i t hi hb hd ht => exact (exec_codes ht).imp_right (⟨.inl (hi.commanded hb), ·⟩)
  | passed => exact .inl (codesKept_of_cc rfl)
  | linkError e hi hp =>
    exact (failWait_codes (takeEvent_cc _ (popInput s))).imp_right (⟨.inr ⟨hp, _, hi⟩, ·⟩)
  | datagram B f hi hp => exact (rxSegment_codes (taken_cc B s)).imp_right (⟨.inr ⟨hp, _, hi⟩, ·⟩)
  | reset hi => exact absurd hi hr

/-- Settles O53: BUSY does not fall at a commanded completion, for there it is 0 already. -/
theorem completionWritesTheCodes : Obligations.CompletionWritesTheCodes := by
  intro s t h hr commanded offered completed
  obtain kept | ⟨cause, done⟩ := step_codes h hr
  · exact ⟨(absurd kept.result ·), (absurd kept.count ·), (absurd kept.ioerr ·),
      fun hs ht => absurd ((kept.busy hs).symm.trans ht) nofun⟩
  · have hc : completed := ⟨cause, done.busy, done.phase⟩
    refine ⟨fun _ => hc, fun hn => ⟨hc, done.count hn⟩, fun hn => ⟨hc, done.ioerr hn⟩,
      fun hs _ => ?_⟩
    exact cause.resolve_left fun hcmd => absurd (hs.symm.trans hcmd.1) nofun

end Sys2Proof.Machine
end

section
/-! Which instruction writes which register: the last column of the table of 10_state.md R35. -/

namespace Sys2Proof.Machine

open Sys2Proof

/-- What no segment kind writes, whatever the waiting command makes of it. -/
structure TurnKeeps (s t : State) : Prop where
  cfg : t.cfg = s.cfg
  laddr : t.laddr = s.laddr
  paddr : t.ctx.paddr = s.ctx.paddr
  pport : t.ctx.pport = s.ctx.pport
  lport : t.ctx.lport = s.ctx.lport
  buf : t.buf = s.buf
  chk : t.chk = s.chk
  epoch : t.epoch = s.epoch

/-- What no refusal and no bare completion writes. -/
structure RegsKept (s t : State) : Prop extends TurnKeeps s t where
  seq : t.ctx.seq = s.ctx.seq
  ack : t.ctx.ack = s.ctx.ack
  seg : t.seg = s.seg

theorem turnKeeps_self (s : State) : TurnKeeps s s := ⟨rfl, rfl, rfl, rfl, rfl, rfl, rfl, rfl⟩

theorem TurnKeeps.trans {s u t : State} (h : TurnKeeps s u) (h' : TurnKeeps u t) :
    TurnKeeps s t where
  cfg := h'.cfg.trans h.cfg
  laddr := h'.laddr.trans h.laddr
  paddr := h'.paddr.trans h.paddr
  pport := h'.pport.trans h.pport
  lport := h'.lport.trans h.lport
  buf := h'.buf.trans h.buf
  chk := h'.chk.trans h.chk
  epoch := h'.epoch.trans h.epoch

theorem turnKeeps_setConn (c : ConnState) (s : State) : TurnKeeps s (setConn c s) :=
  ⟨rfl, rfl, rfl, rfl, rfl, rfl, rfl, rfl⟩

theorem turnKeeps_storeSegment (T : Segment) (s : State) : TurnKeeps s (storeSegment T s) :=
  ⟨rfl, rfl, rfl, rfl, rfl, rfl, rfl, rfl⟩

theorem regsKept_refuse (s : State) : RegsKept s (refuse s) where
  toTurnKeeps := ⟨rfl, rfl, rfl, rfl, rfl, rfl, rfl, rfl⟩
  seq := rfl
  ack := rfl
  seg := rfl

theorem regsKept_raise (c : Code) (e : Word) (s : State) : RegsKept s (raise c e s) := by
  cases c <;> exact ⟨⟨rfl, rfl, rfl, rfl, rfl, rfl, rfl, rfl⟩, rfl, rfl, rfl⟩

/-- A decision writes SEQ, ACK and STATE of the context and nothing of the rest. -/
theorem DecisionCase.turnKeeps {s t : State} (hc : DecisionCase s t) : TurnKeeps s t := by
  cases hc <;> exact ⟨rfl, rfl, rfl, rfl, rfl, rfl, rfl, rfl⟩

theorem turnKeeps_failWait (c : Code) (e : Word) (s : State) : TurnKeeps s (failWait c e s) := by
  obtain hf | ⟨-, hf⟩ | ⟨-, hf⟩ := failWait_cases c e s <;> rw [hf]
  · exact (turnKeeps_setConn .closed s).trans (regsKept_raise c e _).toTurnKeeps
  · exact (regsKept_raise c e s).toTurnKeeps
  · exact turnKeeps_self s

theorem turnKeeps_rxSegment (f : Half) (s : State) : TurnKeeps s (rxSegment f s) := by
  obtain hf | ⟨-, -, hf⟩ | ⟨T, -, -, hf | ⟨-, hf⟩⟩ := rxSegment_cases f s <;> rw [hf]
  · exact turnKeeps_self s
  · exact turnKeeps_failWait _ _ s
  · exact turnKeeps_storeSegment T s
  · exact (turnKeeps_storeSegment T s).trans (decideMatch_case _).turnKeeps

/-- R35's last column for one instruction: what `i` leaves, unless it is the one that writes it. -/
structure WritesOnly (i : Instr) (s t : State) : Prop where
  cfg : t.cfg = s.cfg
  laddr : t.laddr = s.laddr
  paddr : t.ctx.paddr = s.ctx.paddr
  lport : t.ctx.lport = s.ctx.lport
  epoch : t.epoch = s.epoch
  pport : i ≠ .accept → t.ctx.pport = s.ctx.pport
  sum : i ≠ .csumClr → i ≠ .csumAdd → (∀ imm, i ≠ .csumAddw imm) → t.chk.sum = s.chk.sum
  csumout : i ≠ .csumFin → t.chk.out = s.chk.out
  buf : i ≠ .encode → t.buf = s.buf
  seg : (∃ w, encode i = .command w) → i ≠ .decode → i ≠ .csumSeg → t.seg = s.seg
  counters : (∃ w, encode i = .command w) → i ≠ .connect → i ≠ .accept →
    t.ctx.seq = s.ctx.seq ∧ t.ctx.ack = s.ctx.ack

theorem RegsKept.writesOnly {s t : State} (h : RegsKept s t) (i : Instr) : WritesOnly i s t where
  cfg := h.cfg
  laddr := h.laddr
  paddr := h.paddr
  lport := h.lport
  epoch := h.epoch
  pport _ := h.pport
  sum _ _ _ := congrArg _ h.chk
  csumout _ := congrArg _ h.chk
  buf _ := h.buf
  seg _ _ _ := h.seg
  counters _ _ _ := ⟨h.seq, h.ack⟩

theorem TurnKeeps.writesOnly {s t : State} (h : TurnKeeps s t) {i : Instr}
    (hi : ∀ w, encode i ≠ .command w) : WritesOnly i s t where
  cfg := h.cfg
  laddr := h.laddr
  paddr := h.paddr
  lport := h.lport
  epoch := h.epoch
  pport _ := h.pport
  sum _ _ _ := congrArg _ h.chk
  csumout _ := congrArg _ h.chk
  buf _ := h.buf
  seg hw := absurd hw.choose_spec (hi _)
  counters hw := absurd hw.choose_spec (hi _)

theorem CommandCase.writesOnly {i : Instr} {s t : State} (hc : CommandCase s i t) :
    WritesOnly i s t := by
  cases hc with
  | failed i c => exact (regsKept_raise c _ s).writesOnly i
  | summed i v hi => obtain rfl | rfl | ⟨imm, rfl⟩ := hi <;> constructor <;> simp
  | csumFin v => constructor <;> simp
  | csumSeg v => constructor <;> simp
  | decode T f hd => constructor <;> simp
  | encode n hl => constructor <;> simp
  | ctxLoad => constructor <;> simp
  | connectFailed B e => constructor <;> simp [failClosed, connectStart]
  | connectWaits B => constructor <;> simp [connectStart]
  | acceptFailed B e => constructor <;> simp [failClosed, acceptStart]
  | acceptWaits B => constructor <;> simp [acceptStart]
  | recvWaits hs => constructor <;> simp
  | sendFailed B e => constructor <;> simp
  | sendWaits B hs => constructor <;> simp
  | close B => constructor <;> simp

theorem exec_writesOnly {i : Instr} {s t : State} (h : exec i s = .next t) :
    WritesOnly i s t := by
  cases exec_case h with
  | refused hb => exact (regsKept_refuse s).writesOnly i
  | ran _ hb hc => exact hc.writesOnly
  | turned f hi => exact (turnKeeps_rxSegment f s).writesOnly hi

/-- Settles O54, by the case analysis of `exec_case`. -/
theorem commandsWriteOnlyTheirRegisters : Obligations.CommandsWriteOnlyTheirRegisters := by
  intro i s t h
  have hw := exec_writesOnly h
  exact ⟨hw.cfg, hw.laddr, hw.paddr, hw.lport, hw.epoch, hw.pport, hw.sum, hw.csumout, hw.buf,
    hw.seg, hw.counters⟩

end Sys2Proof.Machine
end

section
/-! No instruction reads an array byte at or past its length register (93_implementation_defined.md
U1). Two states are alike when they differ in such bytes alone; every operation takes alike states
to alike states, and so does every instruction. -/

namespace Sys2Proof.Machine

open Sys2Proof

/-- The state with other contents of the three arrays. -/
def withArrays (s : State) (b o p : Memory) : State :=
  { s with buf.bytes := b, seg.opt := o, seg.pay := p }

/-- Alike: the same but for array bytes at or past the length registers. -/
structure Alike (s s' : State) : Prop where
  rest : ∃ b o p, s' = withArrays s b o p
  buf : bufBytes s' = bufBytes s
  opt : optBytes s' = optBytes s
  pay : payBytes s' = payBytes s

/-- What does not depend on the arrays at all is equal in alike states. -/
theorem Alike.proj {α : Type} {s s' : State} (h : Alike s s') (φ : State → α)
    (hφ : ∀ s b o p, φ (withArrays s b o p) = φ s := by intros; rfl) : φ s' = φ s := by
  obtain ⟨b, o, p, rfl⟩ := h.rest
  exact hφ s b o p

theorem Alike.segOf {s s' : State} (h : Alike s s') : segOf s' = segOf s := by
  rw [Machine.segOf, Machine.segOf, h.opt, h.pay, h.proj (·.seg.hdr)]

/-! ### The operations -/

/-- An operation that leaves the arrays and their lengths alone, and reads neither. -/
theorem Alike.map {s s' : State} (h : Alike s s') (f : State → State)
    (hf : ∀ s b o p, f (withArrays s b o p) = withArrays (f s) b o p := by intros; rfl)
    (hb : ∀ s, bufBytes (f s) = bufBytes s := by intros; rfl)
    (ho : ∀ s, optBytes (f s) = optBytes s := by intros; rfl)
    (hp : ∀ s, payBytes (f s) = payBytes s := by intros; rfl) : Alike (f s) (f s') where
  rest := by
    obtain ⟨b, o, p, rfl⟩ := h.rest
    exact ⟨b, o, p, hf s b o p⟩
  buf := by rw [hb, hb, h.buf]
  opt := by rw [ho, ho, h.opt]
  pay := by rw [hp, hp, h.pay]

theorem Alike.raise {s s' : State} (h : Alike s s') (c : Code) (e : Word) :
    Alike (raise c e s) (raise c e s') :=
  h.map (Machine.raise c e) (by cases c <;> intros <;> rfl) (by cases c <;> intros <;> rfl)
    (by cases c <;> intros <;> rfl) (by cases c <;> intros <;> rfl)

theorem Alike.failClosed {s s' : State} (h : Alike s s') (c : Code) (e : Word) :
    Alike (failClosed c e s) (failClosed c e s') :=
  (h.map (setConn .closed)).raise c e

theorem Alike.storeSegment {s s' : State} (h : Alike s s') {T : Segment}
    (ho : T.opt.length < 64) (hp : T.pay.length ≤ 65535) :
    Alike (storeSegment T s) (storeSegment T s') where
  rest := by
    obtain ⟨b, o, p, rfl⟩ := h.rest
    exact ⟨b, _, _, rfl⟩
  buf := h.buf
  opt := by rw [optBytes_storeSegment T s' ho, optBytes_storeSegment T s ho]
  pay := by rw [payBytes_storeSegment T s' hp, payBytes_storeSegment T s hp]

/-- A segment decoded from BUF has lengths that the registers of S hold. -/
theorem Alike.decoded {s s' : State} (h : Alike s s') {f : Half} {T : Segment}
    (hd : decodeAs f (bufBytes s) = .ok T) :
    Alike (Machine.storeSegment T s) (Machine.storeSegment T s') := by
  have hb : (bufBytes s).length < 65536 := by
    rw [bufBytes, length_readBytes]
    exact s.buf.len.isLt
  have ho := (length_opt_of_decodeAs hd).2
  have hp := length_pay_of_decodeAs hd
  exact h.storeSegment (by omega) (by omega)

theorem Alike.storeBuf {s s' : State} (h : Alike s s') {B : List Byte} (hB : B.length ≤ 65535) :
    Alike (storeBuf B s) (storeBuf B s') where
  rest := by
    obtain ⟨b, o, p, rfl⟩ := h.rest
    exact ⟨_, o, p, rfl⟩
  buf := by rw [bufBytes_storeBuf B s' hB, bufBytes_storeBuf B s hB]
  opt := h.opt
  pay := h.pay

/-! ### The parts of a command -/

theorem Alike.issue {run : State → State} {s s' : State} (h : Alike s s')
    (hr : Alike (run s) (run s')) : Alike (issue run s) (issue run s') := by
  rw [Machine.issue, Machine.issue, h.proj (·.cc.busy)]
  split_ifs
  · exact h.map refuse
  · exact hr

theorem Alike.needState {c : ConnState} {run : State → State} {s s' : State} (h : Alike s s')
    (hr : Alike (run s) (run s')) : Alike (needState c run s) (needState c run s') := by
  rw [Machine.needState, Machine.needState, h.proj (·.ctx.state)]
  split_ifs
  · exact hr
  · exact h.raise _ _

/-- Alike states send the same datagram and get the same answer. -/
theorem Alike.transmit {B B' : List Byte} {onErr : Word → State → State} {onOk : State → State}
    {s s' : State} (h : Alike s s') (hB : B' = B)
    (hok : ∀ u u', Alike u u' → Alike (onOk u) (onOk u'))
    (herr : ∀ e u u', Alike u u' → Alike (onErr e u) (onErr e u')) :
    Alike (transmit B onErr onOk s) (transmit B' onErr onOk s') := by
  subst hB
  rw [Machine.transmit, Machine.transmit, h.proj nextAnswer]
  split
  · exact hok _ _ (h.map (linkTx B'))
  · exact herr _ _ _ (h.map (linkTx B'))

theorem Alike.build {s s' : State} (h : Alike s s') (c : Half) (P : List Byte) :
    build c P s' = build c P s :=
  h.proj (Machine.build c P)

/-! ### A waiting command -/

theorem Alike.connectDecide {s s' : State} (h : Alike s s') :
    Alike (connectDecide s) (connectDecide s') := by
  rw [Machine.connectDecide, Machine.connectDecide, h.proj segCtrl]
  have ha := h.map (adoptCounters 1#32)
  split_ifs
  · exact ha.transmit (ha.build _ _) (fun _ _ hu => (hu.map (setConn .established)).map (done 0#32))
      fun e _ _ hu => hu.failClosed _ e
  · exact h.failClosed _ _

theorem Alike.acceptDecide {s s' : State} (h : Alike s s') :
    Alike (acceptDecide s) (acceptDecide s') := by
  rw [Machine.acceptDecide, Machine.acceptDecide, h.proj segCtrl]
  split_ifs
  · exact ((h.map (adoptCounters 0#32)).map (setConn .established)).map (done 0#32)
  · exact h.failClosed _ _

theorem Alike.recvDecide {s s' : State} (h : Alike s s') :
    Alike (recvDecide s) (recvDecide s') := by
  rw [Machine.recvDecide, Machine.recvDecide, h.proj segCtrl, h.proj (·.seg.paylen)]
  have ha := h.map (adoptCounters (s.seg.paylen.setWidth 32))
  split_ifs
  · exact ha.transmit (ha.build _ _)
      (fun _ _ hu => hu.map fun t => done (t.seg.paylen.setWidth 32) t)
      fun e _ _ hu => hu.raise _ e
  · exact h

theorem Alike.sendDecide {s s' : State} (h : Alike s s') :
    Alike (sendDecide s) (sendDecide s') := by
  rw [Machine.sendDecide, Machine.sendDecide, h.proj segCtrl, h.proj (·.hid.sendLen)]
  split_ifs
  · exact (h.map (adoptCounters 0#32)).map (done _)
  · exact h.raise _ _

theorem Alike.decideMatch {s s' : State} (h : Alike s s') :
    Alike (decideMatch s) (decideMatch s') := by
  rw [Machine.decideMatch, Machine.decideMatch, h.proj (·.hid.cur)]
  split
  · exact h.connectDecide
  · exact h.acceptDecide
  · exact h.recvDecide
  · exact h.sendDecide
  all_goals exact h

theorem Alike.failWait {s s' : State} (h : Alike s s') (c : Code) (e : Word) :
    Alike (failWait c e s) (failWait c e s') := by
  rw [Machine.failWait, Machine.failWait, h.proj (·.hid.cur)]
  split
  · exact h.failClosed c e
  · exact h.failClosed c e
  · exact h.raise c e
  · exact h.raise c e
  all_goals exact h

/-- A turn of `wait_match` reads BUF up to BUFLEN. -/
theorem Alike.rxSegment {s s' : State} (h : Alike s s') (f : Half) :
    Alike (rxSegment f s) (rxSegment f s') := by
  rw [Machine.rxSegment, Machine.rxSegment, h.proj (·.hid.phase), h.buf, h.proj (·.cfg.badHlen)]
  split
  · exact h
  · split
    · exact h
    · split
      · exact h
      · exact h.failWait _ _
    · rename_i T hd
      have hT := h.decoded hd
      rw [hT.proj isMatching]
      split_ifs
      · exact hT.decideMatch
      · exact hT

/-! ### The instructions -/

theorem Alike.next {s s' t : State} (h : Alike s s')
    (hs : Host.Outcome.next s = (.next t : Host.Outcome State Fault Refusal)) :
    ∃ t', Host.Outcome.next s' = (.next t' : Host.Outcome State Fault Refusal) ∧ Alike t t' :=
  ⟨s', rfl, Host.Outcome.next.inj hs ▸ h⟩

theorem Alike.exec {i : Instr} {s s' t : State} (h : Alike s s') (hl : s.cfg.Legal)
    (hx : exec i s = .next t) : ∃ t', exec i s' = .next t' ∧ Alike t t' := by
  cases i with
  | csumClr => exact (h.issue (h.map fun u => done 0#32 { u with chk.sum := 0#32 })).next hx
  | csumAdd =>
    refine (h.issue ?_).next hx
    rw [h.buf]
    exact h.map fun u =>
      done 0#32 { u with chk.sum := u.chk.sum + BitVec.ofNat 32 (sum16 (bufBytes s)) }
  | csumAddw imm =>
    exact (h.issue (h.map fun u =>
      done 0#32 { u with chk.sum := u.chk.sum + imm.setWidth 32 })).next hx
  | csumFin =>
    exact (h.issue (h.map fun u => done 0#32 { u with chk.out := compile u.chk.sum })).next hx
  | csumSeg =>
    refine (h.issue ?_).next hx
    rw [h.proj (·.cfg.maxSeg), h.proj segLen, h.segOf]
    split_ifs
    · exact h.raise _ _
    · exact h.map fun u => done 0#32
        { u with seg.hdr.checksum := tcpsum u.laddr u.ctx.paddr (Machine.segOf s) }
  | decode =>
    refine (h.issue ?_).next hx
    rw [h.buf]
    split
    · exact h.raise _ _
    · exact (h.decoded ‹_›).map (done 0#32)
  | encode =>
    refine (h.issue ?_).next hx
    rw [h.proj (·.cfg.maxSeg), h.proj segLen, h.segOf]
    split_ifs with hlen
    · exact h.raise _ _
    · have hB : (encodeSegment (Machine.segOf s)).length ≤ 65535 := by
        rw [length_encodeSegment, length_segOf]
        exact (Nat.not_lt.1 hlen).trans hl.2.1
      exact (h.storeBuf hB).map (done _)
  | ctxLoad =>
    exact (h.issue (h.needState ((h.map (setConn .established)).map (done 0#32)))).next hx
  | connect =>
    have hc := h.map connectStart
    exact (h.issue (h.needState (hc.transmit (hc.build _ _) (fun _ _ hu => hu.map (enterWait _))
      fun e _ _ hu => hu.failClosed _ e))).next hx
  | accept =>
    have hc := h.map acceptStart
    exact (h.issue (h.needState (hc.transmit (hc.build _ _) (fun _ _ hu => hu.map (enterWait _))
      fun e _ _ hu => hu.failClosed _ e))).next hx
  | recv => exact (h.issue (h.needState (h.map (enterWait .recv)))).next hx
  | send =>
    have hB : Machine.build Kind.pshAck.flags (payBytes s') s' =
        Machine.build Kind.pshAck.flags (payBytes s) s := by
      rw [h.pay, h.build]
    refine (h.issue (h.needState ?_)).next hx
    exact h.transmit hB (fun _ _ hu => hu.map fun t => enterWait .send (sampleLen t))
      fun e _ _ hu => hu.raise .eIo e
  | close =>
    refine (h.issue (h.needState ?_)).next hx
    rw [h.build Kind.finAck.flags []]
    exact h.map fun u =>
      done 0#32 (setConn .closed (linkTx (Machine.build Kind.finAck.flags [] s) u))
  | segSyn hl rsv => exact (h.rxSegment _).next hx
  | segSynAck hl rsv => exact (h.rxSegment _).next hx
  | segAck hl rsv => exact (h.rxSegment _).next hx
  | segPshAck hl rsv => exact (h.rxSegment _).next hx
  | segFinAck hl rsv => exact (h.rxSegment _).next hx

/-- Settles O58: the two starts are alike, and every instruction keeps them so. -/
theorem unreadBytesDoNotMatter : Obligations.UnreadBytesDoNotMatter := by
  intro i s t b o p hl s' hb ho hp hx
  have h : Alike s s' := ⟨⟨b, o, p, rfl⟩, hb, ho, hp⟩
  obtain ⟨t', hx', ⟨b', o', p', rfl⟩, hb', ho', hp'⟩ := h.exec hl hx
  exact ⟨_, hx', rfl, hb', ho', hp'⟩

end Sys2Proof.Machine
end

section
/-! The host's accesses by name (10_state.md R27, R33 to R36; 20_memory.md R46, R47). -/

namespace Sys2Proof.Machine

open Sys2Proof

/-! ### The step of an access -/

theorem refuse_popInput {s : State} {i : Input} {rest : List Input}
    (h : s.env.inbox = i :: rest) :
    refuse (popInput s) =
      { s with cc.wref := true, env.inbox := rest, env.reply := .refused } := by
  rw [popInput_eq h]
  rfl

theorem answer_popInput {s : State} {i : Input} {rest : List Input}
    (h : s.env.inbox = i :: rest) (r : Reply) :
    answer r (popInput s) = { s with env.inbox := rest, env.reply := r } := by
  rw [popInput_eq h]
  rfl

/-- An access that is no write of CMD is one step. -/
theorem step_host {s : State} {op : HostOp} {rest : List Input}
    (h : s.env.inbox = .host op :: rest) (hop : ∀ w, op ≠ .write .cmd w) :
    step s = .next (hostAccess op (popInput s)) :=
  step_settled ((fetch_host h).trans (fetchHost_settled hop _))

/-- An access the block refuses is one step too, a write of CMD among them. -/
theorem step_host_refused {s : State} {op : HostOp} {rest : List Input}
    (h : s.env.inbox = .host op :: rest)
    (hr : fetchHost op (popInput s) = .settled (refuse (popInput s))) :
    step s = .next { s with cc.wref := true, env.inbox := rest, env.reply := .refused } := by
  rw [step_settled ((fetch_host h).trans hr), refuse_popInput h]

theorem fetchHost_busy {s : State} {op : HostOp} (hb : s.cc.busy = true)
    (h1 : op ≠ .read .status) (h2 : ∀ w, op ≠ .write .status w) :
    fetchHost op s = .settled (refuse s) := by
  by_cases hop : ∃ w, op = .write .cmd w
  · obtain ⟨w, rfl⟩ := hop
    exact fetchCommand_busy w hb
  · rw [fetchHost_settled (not_exists.1 hop), hostAccess_busy hb h1 h2]

/-- Settles O10, a write of CMD included. -/
theorem busyBlockRefusesTheHost : Obligations.BusyBlockRefusesTheHost :=
  fun _ _ _ hb h h1 h2 => step_host_refused h (fetchHost_busy hb h1 h2)

/-! ### Register reads -/

theorem hostRead_refused {s : State} {r : Reg} (h : r = .cmd ∨ s.cc.busy = true ∧ r ≠ .status) :
    hostRead r s = refuse s := by
  obtain rfl | ⟨hb, hr⟩ := h
  · rfl
  · exact hostAccess_busy (op := .read r) hb (fun h => hr (HostOp.read.inj h)) nofun

theorem hostRead_accepted {s : State} {r : Reg} (hr : r ≠ .cmd)
    (h : s.cc.busy = false ∨ r = .status) : hostRead r s = answer (.word (regValue s r)) s := by
  obtain hb | rfl := h
  · unfold hostRead
    split
    · rfl
    · exact absurd rfl hr
    · rw [if_neg (by simp [hb])]
  · rfl

/-- No register is held with the outside agents. -/
theorem regValue_env (s : State) (e : Env) (r : Reg) :
    regValue { s with env := e } r = regValue s r := by
  cases r <;> rfl

theorem regValue_popInput (s : State) (r : Reg) : regValue (popInput s) r = regValue s r :=
  regValue_env s _ r

theorem regValue_answer (q : Reply) (s : State) (r : Reg) :
    regValue (answer q s) r = regValue s r :=
  regValue_env s _ r

theorem readArr_popInput (s : State) (a : Arr) (i : Nat) :
    readArr (popInput s) a i = readArr s a i :=
  readArr_congr (by cases a <;> rfl) rfl i

theorem statusWord_eq (s : State) :
    statusWord s = (if s.cc.wref then 2#32 else 0#32) + (if s.cc.busy then 1#32 else 0#32) := by
  unfold statusWord
  cases s.cc.wref <;> cases s.cc.busy <;> rfl

/-- Settles O11. -/
theorem hostReadHasNoSideEffect : Obligations.HostReadHasNoSideEffect := by
  refine ⟨fun s r rest h => ⟨fun hr => ?_, fun hr hb => ?_⟩, fun s => ?_, fun s => ?_, fun s => ?_⟩
  · rw [step_host h nofun, ← refuse_popInput h]
    exact congrArg _ (hostRead_refused hr)
  · rw [step_host h nofun, ← answer_popInput h, ← regValue_popInput]
    exact congrArg _ (hostRead_accepted hr hb)
  · have half : ∀ v : Half, (v.setWidth 32).toNat = v.toNat := fun v =>
      BitVec.toNat_setWidth_of_le (by decide)
    exact ⟨statusWord_eq s, rfl, rfl, rfl, rfl, rfl, rfl, rfl, rfl, rfl, half _, half _, half _,
      half _, half _, half _, half _, half _, half _, half _,
      BitVec.toNat_setWidth_of_le (by decide), half _⟩
  · show (s.ctx.state, s.ctx.state.value.setWidth 32) ∈ _
    cases s.ctx.state <;> decide
  · show (s.cc.result, s.cc.result.value.setWidth 32) ∈ _
    cases s.cc.result <;> decide

/-! ### STATUS -/

/-- Bit 1 of a word, by a mask. -/
theorem and_two_beq (w : Word) : (w &&& 2#32 == 2#32) = w.getLsbD 1 := by
  have h : w &&& 2#32 = if w.getLsbD 1 then 2#32 else 0#32 := BitVec.and_twoPow w 1
  rw [h]
  cases w.getLsbD 1 <;> rfl

theorem hostWrite_status (w : Word) (s : State) :
    hostWrite .status w s =
      answer .ok { s with cc.wref := s.cc.wref && !(w &&& 2#32 == 2#32) } := by
  rw [and_two_beq, hostWrite]
  cases w.getLsbD 1 <;> simp

/-- Settles O14. -/
theorem statusReadsAndClears : Obligations.StatusReadsAndClears := by
  refine fun s rest => ⟨fun h => ?_, fun w h => ?_⟩
  · rw [← statusWord_eq, ← answer_popInput h]
    exact step_host h nofun
  · rw [step_host h nofun, hostAccess, hostWrite_status, popInput_eq h]
    rfl

/-! ### Register writes -/

/-- What a register reads as after a write of `w`, on every register. -/
theorem regValue_setReg (s : State) (w : Word) (r q : Reg) :
    regValue (setReg s w r) q = if q = r then regValue (setReg s w r) r else regValue s q := by
  cases r <;> cases q <;> rfl

/-- The registers of R35 that a host writes as plain words. -/
def HostWritable (r : Reg) : Prop :=
  r ∉ [Reg.cmd, .status, .result, .ioerr, .count, .state, .csumout]

/-- A written register reads as the low bits of the word, as many as its width (R34). -/
theorem regValue_setReg_same {r : Reg} (hr : HostWritable r) (s : State) (w : Word) :
    regValue (setReg s w r) r = (w.setWidth (regWidth r)).setWidth 32 := by
  cases r with
  | cmd | status | result | ioerr | count | state | csumout => exact absurd (by decide) hr
  | _ => rfl

theorem setWidth_setWidth_of_lt {w : Word} {n : Nat} (h : w.toNat < 2 ^ n) :
    (w.setWidth n).setWidth 32 = w := by
  apply BitVec.eq_of_toNat_eq
  rw [BitVec.toNat_setWidth, BitVec.toNat_setWidth, Nat.mod_eq_of_lt h, Nat.mod_eq_of_lt w.isLt]

theorem writeRule_ne_never_iff (r : Reg) :
    writeRule r ≠ .never ↔ r ∉ [Reg.result, .ioerr, .count, .state, .csumout] := by
  cases r <;> decide

theorem writeRule_eq_whenClosed_iff (r : Reg) :
    writeRule r = .whenClosed ↔ r ∈ [Reg.laddr, .paddr, .pport, .lport, .seq, .ack] := by
  cases r <;> decide

/-- The limit of a register is its width, or the limit of a length register (R20, R21, R23). -/
theorem le_regLimit_iff {cfg : Config} (hl : cfg.Legal) (r : Reg) (w : Word) :
    w.toNat ≤ regLimit cfg r ↔
      w.toNat < 2 ^ regWidth r ∧ (r = .sOptlen → w.toNat ≤ 40) ∧
        (r = .sPaylen → w.toNat ≤ cfg.maxSeg - 20) ∧ (r = .buflen → w.toNat ≤ cfg.maxSeg) := by
  obtain ⟨-, hmax, -, -⟩ := hl
  cases r with
  | sOptlen =>
    simp only [regLimit, regWidth, maxOpt, reduceCtorEq, false_implies, true_implies, and_true]
    omega
  | sPaylen =>
    simp only [regLimit, regWidth, Config.maxPay, reduceCtorEq, false_implies, true_implies,
      true_and, and_true]
    omega
  | buflen =>
    simp only [regLimit, regWidth, reduceCtorEq, false_implies, true_implies, true_and]
    omega
  | _ =>
    simp only [regLimit, regWidth, reduceCtorEq, false_implies, and_true]
    omega

theorem hostWrite_eq {s : State} {r : Reg} {w : Word} (hr : r ≠ .status) :
    hostWrite r w s = if writeAllowed s r w then answer .ok (setReg s w r) else refuse s := by
  cases r with
  | status => exact absurd rfl hr
  | _ => rfl

/-- Settles O12: the rule's condition is `writeAllowed`, and `setReg` writes one register. -/
theorem hostWriteReadsBack : Obligations.HostWriteReadsBack := by
  intro s r w rest hl h hcmd hstatus accepted
  have hs : step s = .next (hostWrite r w (popInput s)) :=
    step_host h fun v hv => hcmd (HostOp.write.inj hv).1
  have hw : writeAllowed (popInput s) r w = true ↔ accepted := by
    rw [writeAllowed_iff, writeRule_ne_never_iff, writeRule_eq_whenClosed_iff]
    rw [show (popInput s).cfg = s.cfg from rfl, le_regLimit_iff hl]
    tauto
  rw [hostWrite_eq hstatus] at hs
  refine ⟨fun ha => ?_, fun ha => ?_⟩
  · rw [if_pos (hw.2 ha)] at hs
    obtain ⟨-, hn, -, hwidth, -⟩ := ha
    have hwr : HostWritable r := by simpa [HostWritable, hcmd, hstatus] using hn
    refine ⟨_, hs, rfl, ?_, fun q hq => ?_, fun a i => ?_, setReg_hid _ w r, setReg_cfg _ w r⟩
    · rw [regValue_answer, regValue_setReg_same hwr, setWidth_setWidth_of_lt hwidth]
    · rw [regValue_answer, regValue_setReg, if_neg hq, regValue_popInput]
    · rw [← readArr_popInput s]
      exact readArr_congr (setReg_arrayOf _ w r a) (setReg_epoch _ w r) i
  · rw [if_neg (mt hw.1 ha)] at hs
    rw [hs, refuse_popInput h]

/-! ### Byte accesses -/

theorem regValue_writeArr (s : State) (a : Arr) (i : Nat) (b : Byte) (r : Reg) :
    regValue (writeArr s a i b) r = regValue s r := by
  cases a <;> cases r <;> rfl

theorem hostWriteByte_accepted {s : State} {a : Arr} {i : Nat} (b : Byte)
    (hb : s.cc.busy = false) (hi : i < s.cfg.capacity a) :
    hostWriteByte a i b s = answer .ok (writeArr s a i b) := by
  simp [hostWriteByte, hb, hi]

theorem hostWriteByte_refused {s : State} {a : Arr} {i : Nat} (b : Byte)
    (h : s.cc.busy = true ∨ s.cfg.capacity a ≤ i) : hostWriteByte a i b s = refuse s := by
  obtain hb | hi := h
  · simp [hostWriteByte, hb]
  · simp [hostWriteByte, Nat.not_lt.2 hi]

theorem hostReadByte_accepted {s : State} {a : Arr} {i : Nat} (hb : s.cc.busy = false)
    (hi : i < s.cfg.capacity a) : hostReadByte a i s = answer (.byte (readArr s a i)) s := by
  simp [hostReadByte, hb, hi]

theorem hostReadByte_refused {s : State} {a : Arr} {i : Nat}
    (h : s.cc.busy = true ∨ s.cfg.capacity a ≤ i) : hostReadByte a i s = refuse s := by
  obtain hb | hi := h
  · simp [hostReadByte, hb]
  · simp [hostReadByte, Nat.not_lt.2 hi]

/-- Settles O13. -/
theorem byteAccessTouchesOneByte : Obligations.ByteAccessTouchesOneByte := by
  refine fun s a i b rest => ⟨fun h => ⟨fun hb hi => ?_, fun hr => ?_⟩,
    fun h => ⟨fun hb hi => ?_, fun hr => ?_⟩⟩
  · have hs : step s = .next (answer .ok (writeArr (popInput s) a i b)) :=
      (step_host h nofun).trans (congrArg _ (hostWriteByte_accepted b hb hi))
    refine ⟨_, hs, rfl, ?_, fun c k hck => ?_, fun r => ?_, writeArr_hid _ a i b,
      writeArr_cfg _ a i b⟩
    · exact (readArr_writeArr (popInput s) a a i i b).trans (if_pos ⟨rfl, rfl⟩)
    · rw [← readArr_popInput s]
      exact (readArr_writeArr (popInput s) a c i k b).trans (if_neg (by tauto))
    · rw [regValue_answer, regValue_writeArr, regValue_popInput]
  · rw [step_host h nofun, ← refuse_popInput h]
    exact congrArg _ (hostWriteByte_refused b hr)
  · rw [step_host h nofun, ← answer_popInput h, ← readArr_popInput]
    exact congrArg _ (hostReadByte_accepted hb hi)
  · rw [step_host h nofun, ← refuse_popInput h]
    exact congrArg _ (hostReadByte_refused hr)

end Sys2Proof.Machine
end

section
/-! RECV up to its wait, the datagram in BUF, and what reset leaves (42_fsm.md R135, R142;
10_state.md R37). -/

namespace Sys2Proof.Machine

open Sys2Proof

/-- Settles O36. -/
theorem recvStartsWaiting : Obligations.RecvStartsWaiting := by
  refine ⟨by decide, fun s ⟨hb, _⟩ hs => ?_⟩
  exact congrArg _ ((issue_idle _ hb).trans (needState_is _ hs))

/-- Settles O49. -/
theorem takenDatagramIsInBuf : Obligations.TakenDatagramIsInBuf := by
  intro s B hl
  have hlen : (B.take s.cfg.maxSeg).length = min s.cfg.maxSeg B.length := List.length_take
  have hmax : s.cfg.maxSeg ≤ 65535 := hl.2.1
  refine ⟨?_, fun i => ?_, rfl⟩
  · show (BitVec.ofNat 16 (B.take s.cfg.maxSeg).length).toNat = _
    rw [hlen, BitVec.toNat_ofNat, Nat.mod_eq_of_lt (by omega)]
  · have hr : readArr (taken B s) .buf i =
        if i < min s.cfg.maxSeg B.length then (B.take s.cfg.maxSeg).getD i 0#8
        else readArr s .buf i :=
      hlen ▸ readArr_loadDatagram B (takeEvent (.dgram B) (popInput s)) i
    rw [hr]
    split_ifs with hi
    · rw [List.getD_eq_getElem?_getD, List.getD_eq_getElem?_getD,
        List.getElem?_take_of_lt (by omega)]
    · rfl

/-- Settles O56: ENCODE of the reset S gives 20 bytes with a header length of 0, which is too low
for DECODE (R37). -/
theorem resetValues : Obligations.ResetValues := by
  refine ⟨fun r => ?_, ⟨rfl, rfl⟩, rfl, rfl, rfl, fun a i => ?_, by decide, _, _, rfl, rfl, ?_⟩
  · cases r <;> rfl
  · cases a <;> rfl
  · decide

end Sys2Proof.Machine
end

section
/-! Which input runs which instruction, and that every step answers (20_memory.md R47, R48, R51;
60_exceptions.md R184). -/

namespace Sys2Proof.Machine

open Sys2Proof

/-- No instruction faults and none is refused (log 21). -/
theorem exec_answers (i : Instr) (s : State) : ∃ t, exec i s = .next t := by
  cases i <;> exact ⟨_, rfl⟩

/-- Settles O8, by the three outcomes of the fetch. -/
theorem everyStepAnswers : Obligations.EveryStepAnswers := by
  refine ⟨fun s => ?_, fun s h => step_nothing (fetch_nil h)⟩
  obtain h | ⟨t, h⟩ | ⟨i, t, h⟩ := fetch_cases s
  · exact ⟨s, step_nothing h⟩
  · exact ⟨t, step_settled h⟩
  · exact step_run h ▸ exec_answers i t

/-! ### The fetch of a bus access -/

/-- A bus access of an offset the map does not define is refused (R48). -/
theorem fetchBus_undefined {b : BusOp} {s : State} (h : busToHost s.cfg b = none) :
    fetchBus b s = .settled (busAnswer b (refuse s)) := by
  simp [fetchBus, h]

theorem fetchBus_settled {b : BusOp} {op : HostOp} {s t : State}
    (h : busToHost s.cfg b = some op) (hf : fetchHost op s = .settled t) :
    fetchBus b s = .settled (busAnswer b t) := by
  simp [fetchBus, h, hf]

theorem fetchBus_run {b : BusOp} {op : HostOp} {s t : State} {i : Instr}
    (h : busToHost s.cfg b = some op) (hf : fetchHost op s = .run i t) :
    fetchBus b s = .run i t := by
  simp [fetchBus, h, hf]

/-! ### The fetch of a command -/

theorem fetchCommand_run {w : Word} {i : Instr} {s : State} (hb : s.cc.busy = false)
    (hd : decodeCommand w = .ok i) : fetchCommand w s = .run i (answer .ok s) := by
  simp [fetchCommand, hb, hd]

/-- A word that decodes, written to CMD of an idle block by name or at its offset, is run. -/
theorem HostHead.fetch_run {s : State} {w : Word} {i : Instr} (head : HostHead (.write .cmd w) s)
    (hb : s.cc.busy = false) (hd : decodeCommand w = .ok i) :
    fetch s = .run i (answer .ok (popInput s)) := by
  have hf : fetchHost (.write .cmd w) (popInput s) = .run i (answer .ok (popInput s)) :=
    fetchCommand_run hb hd
  obtain hi | ⟨b, hi, hbus⟩ := head <;> obtain ⟨rest, hi⟩ := List.head?_eq_some_iff.1 hi
  · exact (fetch_host hi).trans hf
  · exact (fetch_bus hi).trans (fetchBus_run hbus hf)

theorem hostHead_of_host {s : State} {op : HostOp} {rest : List Input}
    (h : s.env.inbox = .host op :: rest) : HostHead op s :=
  .inl (congrArg List.head? h)

theorem hostHead_of_bus {s : State} {b : BusOp} {op : HostOp} {rest : List Input}
    (h : s.env.inbox = .bus b :: rest) (hb : busToHost s.cfg b = some op) : HostHead op s :=
  .inr ⟨b, congrArg List.head? h, hb⟩

/-- The state in which a waiting command looks at a datagram, field by field. -/
theorem taken_eq {s : State} {B : List Byte} {i : Input} {rest : List Input}
    (h : s.env.inbox = i :: rest) :
    taken B s = { s with
      env.inbox := rest
      env.trace := s.env.trace ++ [.rx (.dgram B)]
      buf.bytes := Memory.writeBytes s.buf.bytes 0 (B.take s.cfg.maxSeg)
      buf.len := BitVec.ofNat 16 (B.take s.cfg.maxSeg).length } := by
  rw [taken, popInput_eq h]
  rfl

/-- Settles O7: what the fetch leaves is the state the instruction runs in. -/
theorem stepRunsTheDecodedInstruction : Obligations.StepRunsTheDecodedInstruction := by
  refine ⟨fun s w i rest hb h hd => ?_, fun s w i rest hb h hd => ?_,
    fun s B i rest hp h hl hd => ?_⟩
  · rw [step_run ((hostHead_of_host h).fetch_run hb hd), answer_popInput h]
  · rw [step_run ((hostHead_of_bus h rfl).fetch_run hb hd), answer_popInput h]
  · rw [step_run (fetch_datagram_kind h hp hl hd), taken_eq h]

/-! ### A wait -/

/-- A host access of a busy block changes WREF and its answer alone: a STATUS access is served, any
other refused (10_state.md R26, R35, R36). -/
theorem fetchHost_busy_frame {s : State} (op : HostOp) (hb : s.cc.busy = true) :
    ∃ w r, fetchHost op s = .settled { s with cc.wref := w, env.reply := r } := by
  by_cases hr : op = .read .status
  · subst hr
    exact ⟨_, _, rfl⟩
  by_cases hw : ∃ w, op = .write .status w
  · obtain ⟨w, rfl⟩ := hw
    exact ⟨_, _, congrArg Todo.settled (hostWrite_status w s)⟩
  · exact ⟨_, _, fetchHost_busy hb hr (not_exists.1 hw)⟩

/-- So does a bus access, of a defined offset or not. -/
theorem fetchBus_busy_frame {s : State} (b : BusOp) (hb : s.cc.busy = true) :
    ∃ w r, fetchBus b s = .settled { s with cc.wref := w, env.reply := r } := by
  cases hop : busToHost s.cfg b with
  | none =>
    obtain ⟨r, hr⟩ := busAnswer_eq_answer b (refuse s)
    exact ⟨_, r, (fetchBus_undefined hop).trans (congrArg _ hr)⟩
  | some op =>
    obtain ⟨w, q, hf⟩ := fetchHost_busy_frame op hb
    obtain ⟨r, hr⟩ := busAnswer_eq_answer b { s with cc.wref := w, env.reply := q }
    exact ⟨w, r, (fetchBus_settled hop hf).trans (congrArg _ hr)⟩

theorem popInput_nil {s : State} (h : s.env.inbox = []) : popInput s = s := by
  rw [popInput, h, List.tail_nil, ← h]

/-- Until the link or reset ends it, a wait takes its inputs as a busy block does. -/
theorem step_busy_frame {s t : State} (hb : s.cc.busy = true)
    (hlink : ∀ ev, s.env.inbox.head? ≠ some (.link ev)) (hreset : s.env.inbox.head? ≠ some .reset)
    (h : step s = .next t) : ∃ w r, t = { popInput s with cc.wref := w, env.reply := r } := by
  have of_fetch {u : State} (hf : fetch s = .settled u) : t = u :=
    Host.Outcome.next.inj (h.symm.trans (step_settled hf))
  cases hi : s.env.inbox with
  | nil =>
    have hs : t = s := Host.Outcome.next.inj (h.symm.trans (step_nothing (fetch_nil hi)))
    exact ⟨_, _, hs.trans (popInput_nil hi).symm⟩
  | cons input rest =>
    cases input with
    | host op =>
      obtain ⟨w, r, hf⟩ := fetchHost_busy_frame (s := popInput s) op hb
      exact ⟨w, r, of_fetch ((fetch_host hi).trans hf)⟩
    | bus b =>
      obtain ⟨w, r, hf⟩ := fetchBus_busy_frame (s := popInput s) b hb
      exact ⟨w, r, of_fetch ((fetch_bus hi).trans hf)⟩
    | link ev => exact absurd (congrArg List.head? hi) (hlink ev)
    | reset => exact absurd (congrArg List.head? hi) hreset

/-- Settles O9, by the frame of a busy block's step. -/
theorem waitEndsOnlyByLinkOrReset : Obligations.WaitEndsOnlyByLinkOrReset := by
  intro s t hb _ hlink hreset h
  obtain ⟨w, r, rfl⟩ := step_busy_frame hb hlink hreset h
  rfl

end Sys2Proof.Machine
end

section
/-! The register map (20_memory.md R48): the offsets, and the access each offset stands for. -/

namespace Sys2Proof.Machine

open Sys2Proof

/-! ### The offsets -/

theorem regAt_eq_some_iff (off : Nat) (r : Reg) : regAt off = some r ↔ regOffset r = off := by
  constructor
  · intro h
    simpa using List.find?_some h
  · rintro rfl
    cases r <;> rfl

/-- The map gives an array the offset. -/
def arrayAt (cfg : Config) (off : Nat) (a : Arr) : Bool :=
  decide (arrBase a ≤ off) && decide (off < arrBase a + cfg.capacity a)

theorem byteAt_eq (cfg : Config) (off : Nat) :
    byteAt cfg off =
      ([Arr.opt, .buf, .pay].find? (arrayAt cfg off)).map fun a => (a, off - arrBase a) := rfl

theorem arrayAt_iff {cfg : Config} {off : Nat} {a : Arr} :
    arrayAt cfg off a = true ↔ arrBase a ≤ off ∧ off < arrBase a + cfg.capacity a := by
  rw [arrayAt, Bool.and_eq_true, decide_eq_true_iff, decide_eq_true_iff]

/-- Under legal parameters the ranges of the three arrays do not meet. -/
theorem arrayAt_unique {cfg : Config} (hl : cfg.Legal) {off : Nat} {a c : Arr}
    (ha : arrayAt cfg off a = true) (hc : arrayAt cfg off c = true) : a = c := by
  obtain ⟨-, hmax, -, -⟩ := hl
  rw [arrayAt_iff] at ha hc
  cases a <;> cases c <;> simp only [arrBase, Config.capacity, maxOpt, reduceCtorEq] at * <;> omega

theorem byteAt_eq_some_iff {cfg : Config} (hl : cfg.Legal) (off : Nat) (a : Arr) (i : Nat) :
    byteAt cfg off = some (a, i) ↔ i < cfg.capacity a ∧ off = arrBase a + i := by
  rw [byteAt_eq]
  constructor
  · intro h
    obtain ⟨c, hc, hp⟩ := Option.map_eq_some_iff.1 h
    obtain ⟨rfl, rfl⟩ := Prod.mk.inj hp
    obtain ⟨hlo, hhi⟩ := arrayAt_iff.1 (List.find?_some hc)
    omega
  · rintro ⟨hi, rfl⟩
    have ha : arrayAt cfg (arrBase a + i) a = true := arrayAt_iff.2 ⟨by omega, by omega⟩
    have hmem : a ∈ [Arr.opt, .buf, .pay] := by cases a <;> decide
    obtain ⟨c, hc⟩ := Option.isSome_iff_exists.1 (List.find?_isSome.2 ⟨a, hmem, ha⟩)
    obtain rfl := arrayAt_unique hl ha (List.find?_some hc)
    rw [hc, Option.map_some, Nat.add_sub_cancel_left]

/-! ### The accesses -/

/-- The named access, made in place of the pending input. -/
theorem fetch_named {s : State} {input : Input} {rest : List Input}
    (h : s.env.inbox = input :: rest) (op : HostOp) :
    fetch { s with env.inbox := .host op :: rest } = fetchHost op (popInput s) := by
  rw [popInput_eq h]
  rfl

theorem busAnswer_readWord (off : Nat) (t : State) :
    busAnswer (.readWord off) t =
      if t.env.reply = .refused then { t with env.reply := .word 0xFFFFFFFF#32 } else t := by
  unfold busAnswer
  cases t.env.reply <;> rfl

theorem busAnswer_readByte (off : Nat) (t : State) :
    busAnswer (.readByte off) t =
      if t.env.reply = .refused then { t with env.reply := .byte 0xFF#8 } else t := by
  unfold busAnswer
  cases t.env.reply <;> rfl

/-- The bus answers a write as the named access does. -/
theorem busAnswer_writeWord (off : Nat) (w : Word) (t : State) :
    busAnswer (.writeWord off w) t = t := by
  unfold busAnswer
  cases t.env.reply <;> rfl

theorem busAnswer_writeByte (off : Nat) (b : Byte) (t : State) :
    busAnswer (.writeByte off b) t = t := by
  unfold busAnswer
  cases t.env.reply <;> rfl

/-- A bus access of an offset the map does not define is one step: the refusal. -/
theorem step_bus_undefined {s : State} {b : BusOp} {rest : List Input}
    (h : s.env.inbox = .bus b :: rest) (hb : busToHost s.cfg b = none) :
    step s = .next (busAnswer b
      { s with cc.wref := true, env.inbox := rest, env.reply := .refused }) := by
  rw [← refuse_popInput h]
  exact step_settled ((fetch_bus h).trans (fetchBus_undefined hb))

/-- A bus access to which the bus adds no answer of its own is the named access, a command among
them. -/
theorem step_bus_named {s : State} {b : BusOp} {op : HostOp} {rest : List Input}
    (h : s.env.inbox = .bus b :: rest) (hop : busToHost s.cfg b = some op)
    (hb : ∀ t, busAnswer b t = t) :
    step s = step { s with env.inbox := .host op :: rest } := by
  have hc := fetchHost_case op (popInput s)
  cases hf : fetchHost op (popInput s) with
  | nothing => rw [hf] at hc; cases hc
  | settled t =>
    rw [step_settled ((fetch_named h op).trans hf),
      step_settled ((fetch_bus h).trans (fetchBus_settled hop hf)), hb]
  | run i t =>
    rw [step_run ((fetch_named h op).trans hf),
      step_run ((fetch_bus h).trans (fetchBus_run hop hf))]

/-- A bus access that is no command is the named access with the bus's answer. -/
theorem step_bus_answered {s : State} {b : BusOp} {op : HostOp} {rest : List Input}
    (h : s.env.inbox = .bus b :: rest) (hop : busToHost s.cfg b = some op)
    (hcmd : ∀ w, op ≠ .write .cmd w) :
    ∃ t, step { s with env.inbox := .host op :: rest } = .next t ∧
      step s = .next (busAnswer b t) := by
  have hf := fetchHost_settled hcmd (popInput s)
  exact ⟨_, step_settled ((fetch_named h op).trans hf),
    step_settled ((fetch_bus h).trans (fetchBus_settled hop hf))⟩

/-- Settles O15: a write is the named access, and a read is the named access with all ones where it
is refused. -/
theorem registerMapOffsets : Obligations.RegisterMapOffsets := by
  refine ⟨fun off r => ?_, fun cfg off a i hl => ?_, fun s off rest =>
    ⟨fun w h => ⟨fun r hr => ?_, fun hr => ?_⟩, fun b h => ⟨fun a i ha => ?_, fun ha => ?_⟩,
     fun h => ⟨fun r hr => ?_, fun hr => ?_⟩, fun h => ⟨fun a i ha => ?_, fun ha => ?_⟩⟩⟩
  · rw [regAt_eq_some_iff]
    cases r <;> simp [regOffset, eq_comm]
  · rw [byteAt_eq_some_iff hl]
    cases a <;> simp [arrBase, Config.capacity, maxOpt, Config.maxPay]
  · exact step_bus_named h (by simp [busToHost, hr]) (busAnswer_writeWord off w)
  · rw [step_bus_undefined h (by simp [busToHost, hr]), busAnswer_writeWord]
  · exact step_bus_named h (by simp [busToHost, ha]) (busAnswer_writeByte off b)
  · rw [step_bus_undefined h (by simp [busToHost, ha]), busAnswer_writeByte]
  · simp_rw [← busAnswer_readWord off]
    exact step_bus_answered h (by simp [busToHost, hr]) nofun
  · rw [step_bus_undefined h (by simp [busToHost, hr]), busAnswer_readWord]
    rfl
  · simp_rw [← busAnswer_readByte off]
    exact step_bus_answered h (by simp [busToHost, ha]) nofun
  · rw [step_bus_undefined h (by simp [busToHost, ha]), busAnswer_readByte]
    rfl

end Sys2Proof.Machine
end

section
/-! A segment kind at a waiting command (42_fsm.md R135 to R138, R142; log 10). -/

namespace Sys2Proof.Machine

open Sys2Proof

/-- A segment kind is the turn of `wait_match` on a flags field of that kind. -/
theorem exec_kind (k : Kind) (hl : BitVec 4) (rsv : BitVec 7) (s : State) :
    exec (k.toInstr hl rsv) s = .next (rxSegment (flagsField hl rsv k) s) := by
  cases k <;> rfl

/-- A segment kind offered as a matching segment lets the waiting command decide. -/
theorem exec_kind_matching {k : Kind} {hl : BitVec 4} {rsv : BitVec 7} {s : State} {T : Segment}
    (hp : s.hid.phase = .rxWait) (ho : Offered s (flagsField hl rsv k) T) (hm : Matches s T) :
    exec (k.toInstr hl rsv) s = .next (decideMatch (storeSegment T s)) := by
  rw [exec_kind, rxSegment_matching hp (decodeAs_of_offered ho) hm]

/-- The control bits of an offered segment, once it is in S, are its kind's. -/
theorem segCtrl_storeSegment_offered {k : Kind} {hl : BitVec 4} {rsv : BitVec 7} {s : State}
    {T : Segment} (hcfg : s.cfg.Legal) (ho : Offered s (flagsField hl rsv k) T)
    (hr : reservedClear s.cfg.flagMask rsv = true) : segCtrl (storeSegment T s) = k.flags := by
  obtain ⟨-, -, hnibble, hflags⟩ := hcfg
  show ctrl s.cfg.flagMask T.hdr.flags = _
  rw [ho.2, ctrl_flagsField hl rsv k hnibble hflags hr]

/-- The payload of an offered segment has a length S.PAYLEN can hold. -/
theorem length_pay_of_offered {s : State} {f : Half} {T : Segment} (h : Offered s f T) :
    T.pay.length < 2 ^ 16 := by
  have hB : (bufBytes s).length < 2 ^ 16 := by
    rw [bufBytes, length_readBytes]
    exact s.buf.len.isLt
  have := length_pay_of_decodeAs (decodeAs_of_offered h)
  omega

/-- S.PAYLEN as a 32-bit number, where it holds the length. -/
theorem paylen_storeSegment {T : Segment} (h : T.pay.length < 2 ^ 16) (s : State) :
    (storeSegment T s).seg.paylen.setWidth 32 = BitVec.ofNat 32 T.pay.length := by
  rw [storeSegment_seg_paylen, BitVec.setWidth_ofNat_of_le_of_lt (by decide) h]

/-- Settles O42: `r` is the state RECV transmits from, and S.PAYLEN holds the payload's length, so
the sum and COUNT are the rule's numbers. -/
theorem pshAckCompletesRecv : Obligations.PshAckCompletesRecv := by
  intro s hl rsv T hcfg ⟨_, hp, hcur⟩ ho hm hr r
  have hlen := paylen_storeSegment (length_pay_of_offered ho) s
  have hadopt :
      adoptCounters ((storeSegment T s).seg.paylen.setWidth 32) (storeSegment T s) = r := by
    rw [hlen, adoptCounters, setCounters]
    simp only [r, BitVec.ofNat_add, BitVec.ofNat_toNat, BitVec.setWidth_eq, storeSegment_seg_hdr]
  have hx : exec (.segPshAck hl rsv) s = .next (transmit (build Kind.ack.flags [] r) (raise .eIo)
      (fun t => done (t.seg.paylen.setWidth 32) t) r) := by
    rw [← hadopt]
    refine (exec_kind_matching (k := .pshAck) hp ho hm).trans (congrArg _ ?_)
    rw [decideMatch_recv (s := storeSegment T s) hcur, recvDecide,
      if_pos (segCtrl_storeSegment_offered hcfg ho hr)]
  refine ⟨fun ha => ?_, fun e ha => ?_⟩
  · rw [hx, transmit_ok _ _ _ (s := r) ha]
    show Host.Outcome.next (done ((storeSegment T s).seg.paylen.setWidth 32) _) = _
    rw [hlen]
    rfl
  · rw [hx, transmit_err _ _ _ (s := r) ha]
    rfl

end Sys2Proof.Machine
end

section
/-! Link events and draws come from the FSM unit alone (20_memory.md R52, R57; 42_fsm.md R133). An
instruction, a turn of `wait_match` and a host access are taken one by one; the step is one of
them. -/

namespace Sys2Proof.Machine

open Sys2Proof

/-! ### What the outside agents see -/

/-- No link event has happened and no draw has been made. -/
structure LinkKept (e e' : Env) : Prop where
  trace : e'.trace = e.trace
  draws : e'.drawCount = e.drawCount

/-- Link events may have happened, and no draw has been made. -/
structure LinkGrows (e e' : Env) : Prop where
  trace : e.trace <+: e'.trace
  draws : e'.drawCount = e.drawCount

/-- What one command may ask of the link and of the source of draws. -/
structure LinkUse (i : Instr) (e e' : Env) : Prop where
  trace : e.trace <+: e'.trace
  sends : e'.trace ≠ e.trace → i ∈ [Instr.connect, .accept, .send, .close]
  draws : e'.drawCount ≠ e.drawCount →
    e'.drawCount = e.drawCount + 1 ∧ i ∈ [Instr.connect, .accept]

theorem LinkKept.grows {e e' : Env} (h : LinkKept e e') : LinkGrows e e' :=
  ⟨h.trace ▸ List.prefix_rfl, h.draws⟩

theorem LinkKept.linkUse {e e' : Env} (h : LinkKept e e') (i : Instr) : LinkUse i e e' where
  trace := h.grows.trace
  sends hn := absurd h.trace hn
  draws hn := absurd h.draws hn

theorem linkUse_of_eq (i : Instr) {e e' : Env} (h : e' = e) : LinkUse i e e' :=
  h ▸ LinkKept.linkUse ⟨rfl, rfl⟩ i

theorem linkGrows_refl (e : Env) : LinkGrows e e := ⟨List.prefix_rfl, rfl⟩

theorem LinkGrows.trans {e f e' : Env} (h : LinkGrows e f) (h' : LinkGrows f e') :
    LinkGrows e e' :=
  ⟨h.trace.trans h'.trace, h'.draws.trans h.draws⟩

theorem linkGrows_linkTx (B : List Byte) (s : State) : LinkGrows s.env (linkTx B s).env :=
  ⟨List.prefix_append _ _, rfl⟩

theorem linkGrows_takeEvent (ev : LinkEvent) (s : State) :
    LinkGrows s.env (takeEvent ev (popInput s)).env :=
  ⟨List.prefix_append _ _, rfl⟩

theorem linkKept_refuse (s : State) : LinkKept s.env (refuse s).env := ⟨rfl, rfl⟩

/-- The registers CONNECT and ACCEPT write first cost one draw. -/
theorem connectStart_env (s : State) : (connectStart s).env = (takeDraw s).env := rfl

theorem acceptStart_env (s : State) : (acceptStart s).env = (takeDraw s).env := rfl

/-! ### Host accesses and commands -/

/-- A host access that is no command changes its answer alone. -/
theorem hostAccess_env (op : HostOp) (s : State) :
    ∃ r, (hostAccess op s).env = { s.env with reply := r } := by
  cases op with
  | read r =>
    by_cases h : r = .cmd ∨ s.cc.busy = true ∧ r ≠ .status
    · rw [hostAccess, hostRead_refused h]
      exact ⟨_, rfl⟩
    · obtain ⟨hc, hs⟩ := not_or.1 h
      have hb : s.cc.busy = false ∨ r = .status := by
        rw [← Bool.not_eq_true]
        tauto
      rw [hostAccess, hostRead_accepted hc hb]
      exact ⟨_, rfl⟩
  | write r w =>
    by_cases hr : r = .status
    · subst hr
      rw [hostAccess, hostWrite_status]
      exact ⟨_, rfl⟩
    · rw [hostAccess, hostWrite_eq hr]
      split_ifs
      · exact ⟨.ok, by rw [answer, setReg_env]⟩
      · exact ⟨_, rfl⟩
  | readByte a i => rw [hostAccess, hostReadByte]; split_ifs <;> exact ⟨_, rfl⟩
  | writeByte a i b =>
    rw [hostAccess, hostWriteByte]
    split_ifs
    · exact ⟨_, rfl⟩
    · exact ⟨.ok, by rw [answer, writeArr_env]⟩
    · exact ⟨_, rfl⟩

theorem linkKept_hostAccess (op : HostOp) (s : State) : LinkKept s.env (hostAccess op s).env := by
  obtain ⟨r, hr⟩ := hostAccess_env op s
  exact ⟨by rw [hr], by rw [hr]⟩

theorem CommandCase.linkUse {i : Instr} {s t : State} (hc : CommandCase s i t) :
    LinkUse i s.env t.env := by
  cases hc with
  | failed i c => exact linkUse_of_eq i (raise_env c _ s)
  | connectFailed B e => constructor <;> simp [failClosed, connectStart_env]
  | connectWaits B => constructor <;> simp [connectStart_env]
  | acceptFailed B e => constructor <;> simp [failClosed, acceptStart_env]
  | acceptWaits B => constructor <;> simp [acceptStart_env]
  | sendFailed B e => constructor <;> simp
  | sendWaits B hs => constructor <;> simp
  | close B => constructor <;> simp
  | _ => exact linkUse_of_eq _ (by simp)

/-- A word written to CMD is no segment kind. -/
theorem exists_encode_of_decodeCommand {w : Word} {i : Instr} (h : decodeCommand w = .ok i) :
    ∃ v, encode i = .command v := by
  unfold decodeCommand at h
  split at h
  · cases h
  · rename_i c _
    split_ifs at h
    obtain rfl := Except.ok.inj h
    cases c <;> exact ⟨_, rfl⟩

theorem exec_linkUse {i : Instr} {w : Word} {s t : State} (hd : decodeCommand w = .ok i)
    (h : exec i s = .next t) : LinkUse i s.env t.env := by
  cases exec_case h with
  | refused hb => exact (linkKept_refuse s).linkUse i
  | ran _ hb hc => exact hc.linkUse
  | turned f hi =>
    obtain ⟨v, hv⟩ := exists_encode_of_decodeCommand hd
    exact absurd hv (hi v)

/-- CONNECT and ACCEPT get to their draw in Closed alone (42_fsm.md R132). -/
theorem closed_of_draw {i : Instr} {s t : State} (hi : i ∈ [Instr.connect, .accept])
    (h : exec i s = .next t) (hn : t.env.drawCount ≠ s.env.drawCount) :
    s.ctx.state = .closed := by
  by_contra hs
  have kept : ∀ run, (issue (needState .closed run) s).env.drawCount = s.env.drawCount := by
    intro run
    cases hb : s.cc.busy with
    | true => rw [issue_busy _ hb, refuse_env_drawCount]
    | false => rw [issue_idle _ hb, needState_other _ hs, raise_env]
  obtain rfl | rfl := by simpa using hi
  all_goals
    obtain rfl := Host.Outcome.next.inj h
    exact hn (kept _)

/-! ### A waiting command -/

theorem linkGrows_failWait (c : Code) (e : Word) (s : State) :
    LinkGrows s.env (failWait c e s).env := by
  obtain hf | ⟨-, hf⟩ | ⟨-, hf⟩ := failWait_cases c e s <;> rw [hf]
  · rw [failClosed, raise_env]
    exact linkGrows_refl s.env
  · rw [raise_env]
    exact linkGrows_refl s.env
  · exact linkGrows_refl s.env

theorem DecisionCase.linkGrows {s t : State} (hc : DecisionCase s t) :
    LinkGrows s.env t.env := by
  cases hc with
  | connects B => exact linkGrows_linkTx B s
  | connectFails B e => exact linkGrows_linkTx B s
  | receives n d B hc => exact linkGrows_linkTx B s
  | receiveFails d B e hc => exact linkGrows_linkTx B s
  | _ => exact linkGrows_refl s.env

theorem linkGrows_rxSegment (f : Half) (s : State) :
    LinkGrows s.env (rxSegment f s).env := by
  obtain hf | ⟨-, -, hf⟩ | ⟨T, -, -, hf | ⟨-, hf⟩⟩ := rxSegment_cases f s <;> rw [hf]
  · exact linkGrows_refl s.env
  · exact linkGrows_failWait _ _ s
  · exact linkGrows_refl s.env
  · exact (decideMatch_case (storeSegment T s)).linkGrows

/-! ### The step -/

/-- What a step asks of the link and of the source of draws, by what the step is. -/
inductive StepLinkCase (s t : State) : Prop
  | kept (h : LinkKept s.env t.env)
  | ran (i : Instr) (s' : State) (hf : fetch s = .run i s') (hu : LinkUse i s.env t.env)
      (hc : t.env.drawCount ≠ s.env.drawCount → s.ctx.state = .closed)
  | offered (ho : LinkOffers s) (hg : LinkGrows s.env t.env)

theorem step_linkCase {s t : State} (h : step s = .next t) : StepLinkCase s t := by
  cases step_case h with
  | nothing => exact .kept ⟨rfl, rfl⟩
  | refused r => exact .kept ⟨rfl, rfl⟩
  | access op r hop =>
    have hk := linkKept_hostAccess op (popInput s)
    exact .kept ⟨hk.trace, hk.draws⟩
  | illegal w r hi hb => exact .kept ⟨rfl, rfl⟩
  | command w i t hi hb hd ht =>
    have hu := exec_linkUse hd ht
    refine .ran i _ (hi.fetch_run hb hd) ⟨hu.trace, hu.sends, hu.draws⟩ fun hn => ?_
    exact closed_of_draw (s := answer .ok (popInput s)) (hu.draws hn).2 ht hn
  | passed => exact .kept ⟨rfl, rfl⟩
  | linkError e hi hp =>
    exact .offered ⟨hp, _, hi⟩
      ((linkGrows_takeEvent (.err e) s).trans (linkGrows_failWait _ _ _))
  | datagram B f hi hp =>
    exact .offered ⟨hp, _, hi⟩
      ((linkGrows_takeEvent (.dgram B) s).trans (linkGrows_rxSegment f (taken B s)))
  | reset hi => exact .kept ⟨rfl, rfl⟩

/-- The next draw is the first the environment has ready, or else a free value (log 3). -/
theorem nextDraw_cons {s : State} {d : Word} {ds : List Word} (h : s.env.draws = d :: ds) :
    nextDraw s = d := by
  simp [nextDraw, h]

theorem nextDraw_nil {s : State} (h : s.env.draws = []) :
    nextDraw s = Config.freeDraw s.env.drawCount := by
  simp [nextDraw, h]

/-- So is the next answer of the link (log 4). -/
theorem nextAnswer_cons {s : State} {a : TxAnswer} {as : List TxAnswer}
    (h : s.env.txAnswers = a :: as) : nextAnswer s = a := by
  simp [nextAnswer, h]

theorem nextAnswer_nil {s : State} (h : s.env.txAnswers = []) :
    nextAnswer s = Config.freeAnswer s.env.txCount := by
  simp [nextAnswer, h]

/-- Settles O55, by the three cases of `step_linkCase`. -/
theorem linkEventsAndDrawsComeFromTheFsm : Obligations.LinkEventsAndDrawsComeFromTheFsm := by
  refine ⟨fun s t h => ?_, fun _ _ => rfl, fun s =>
    ⟨fun _ _ => nextDraw_cons, nextDraw_nil, fun _ _ => nextAnswer_cons, nextAnswer_nil⟩⟩
  cases step_linkCase h with
  | kept hk => exact ⟨hk.grows.trace, (absurd hk.trace ·), (absurd hk.draws ·)⟩
  | ran i s' hf hu hc =>
    exact ⟨hu.trace, fun hn => .inl ⟨i, s', hf, hu.sends hn⟩,
      fun hn => ⟨(hu.draws hn).1, hc hn, i, s', hf, (hu.draws hn).2⟩⟩
  | offered ho hg => exact ⟨hg.trace, fun _ => .inr ho, (absurd hg.draws ·)⟩

end Sys2Proof.Machine
end

section
/-! The two bit formats read back (30_encoding.md R61 to R75). An instruction is a command with its
immediate or a segment kind with its open bits; its bits are a number put together from fields, so
taking the fields out again, and putting them together again, is arithmetic. -/

namespace Sys2Proof

/-! ### The instructions by row -/

/-- The word of a command: format CI for CSUM_ADDW, format C0 for the others (R72). -/
def Cmd.word (imm : Half) : Cmd → Word
  | .csumAddw => encodeCI .csumAddw imm
  | c => encodeC0 c

theorem Instr.eq_toInstr (i : Instr) :
    (∃ (c : Cmd) (imm : Half), i = c.toInstr imm) ∨
      ∃ (k : Kind) (hl : BitVec 4) (rsv : BitVec 7), i = k.toInstr hl rsv := by
  cases i with
  | csumClr => exact .inl ⟨.csumClr, 0#16, rfl⟩
  | csumAdd => exact .inl ⟨.csumAdd, 0#16, rfl⟩
  | csumAddw imm => exact .inl ⟨.csumAddw, imm, rfl⟩
  | csumFin => exact .inl ⟨.csumFin, 0#16, rfl⟩
  | csumSeg => exact .inl ⟨.csumSeg, 0#16, rfl⟩
  | decode => exact .inl ⟨.decode, 0#16, rfl⟩
  | encode => exact .inl ⟨.encode, 0#16, rfl⟩
  | ctxLoad => exact .inl ⟨.ctxLoad, 0#16, rfl⟩
  | connect => exact .inl ⟨.connect, 0#16, rfl⟩
  | accept => exact .inl ⟨.accept, 0#16, rfl⟩
  | recv => exact .inl ⟨.recv, 0#16, rfl⟩
  | send => exact .inl ⟨.send, 0#16, rfl⟩
  | close => exact .inl ⟨.close, 0#16, rfl⟩
  | segSyn hl rsv => exact .inr ⟨.syn, hl, rsv, rfl⟩
  | segSynAck hl rsv => exact .inr ⟨.synAck, hl, rsv, rfl⟩
  | segAck hl rsv => exact .inr ⟨.ack, hl, rsv, rfl⟩
  | segPshAck hl rsv => exact .inr ⟨.pshAck, hl, rsv, rfl⟩
  | segFinAck hl rsv => exact .inr ⟨.finAck, hl, rsv, rfl⟩

theorem encode_cmd (c : Cmd) (imm : Half) : encode (c.toInstr imm) = .command (c.word imm) := by
  cases c <;> rfl

theorem encode_kind (k : Kind) (hl : BitVec 4) (rsv : BitVec 7) :
    encode (k.toInstr hl rsv) = .flags (flagsField hl rsv k) := by
  cases k <;> rfl

theorem wf_kind (mask : Half) (k : Kind) (hl : BitVec 4) (rsv : BitVec 7) :
    (k.toInstr hl rsv).wf mask = reservedClear mask rsv := by
  cases k <;> rfl

theorem Kind.flags_injective : Function.Injective Kind.flags := fun k k' h =>
  Option.some.inj (by rw [← ofCtrl_flags k, h, ofCtrl_flags])

/-! ### Command words -/

/-- A word decodes when its OPC is assigned and the reserved bits of the format are 0 (R74). -/
theorem decodeCommand_ok_iff (w : Word) (i : Instr) :
    decodeCommand w = .ok i ↔
      ∃ c, Cmd.ofOpcode (opcField w) = some c ∧ c.reservedZero w = true ∧
        c.toInstr (imm16Field w) = i := by
  unfold decodeCommand
  cases Cmd.ofOpcode (opcField w) with
  | none => simp
  | some c => cases hr : c.reservedZero w <;> simp [hr]

theorem toNat_opcField (w : Word) : (opcField w).toNat = w.toNat % 256 := by
  simp [opcField]

theorem toNat_imm16Field (w : Word) : (imm16Field w).toNat = w.toNat / 256 % 65536 := by
  simp [imm16Field, Nat.shiftRight_eq_div_pow]

theorem toNat_c0Reserved (w : Word) : (c0Reserved w).toNat = w.toNat / 256 := by
  have := w.isLt
  simp only [c0Reserved, BitVec.extractLsb'_toNat, Nat.shiftRight_eq_div_pow]
  omega

theorem toNat_ciReserved (w : Word) : (ciReserved w).toNat = w.toNat / 16777216 := by
  have := w.isLt
  simp only [ciReserved, BitVec.extractLsb'_toNat, Nat.shiftRight_eq_div_pow]
  omega

theorem toNat_encodeC0 (c : Cmd) : (encodeC0 c).toNat = c.opcode.toNat :=
  BitVec.toNat_setWidth_of_le (by decide)

theorem toNat_encodeCI (c : Cmd) (imm : Half) :
    (encodeCI c imm).toNat = imm.toNat * 256 + c.opcode.toNat := by
  have := imm.isLt
  have := c.opcode.isLt
  rw [encodeCI, BitVec.toNat_or, BitVec.toNat_shiftLeft, BitVec.toNat_setWidth_of_le (by decide),
    BitVec.toNat_setWidth_of_le (by decide), Nat.shiftLeft_eq, Nat.mod_eq_of_lt (by omega),
    ← Nat.shiftLeft_eq, ← Nat.shiftLeft_add_eq_or_of_lt (by omega), Nat.shiftLeft_eq]

theorem imm16Field_encodeCI (c : Cmd) (imm : Half) : imm16Field (encodeCI c imm) = imm := by
  have := c.opcode.isLt
  have := imm.isLt
  apply BitVec.eq_of_toNat_eq
  rw [toNat_imm16Field, toNat_encodeCI]
  omega

/-- A word with the reserved bits of format C0 clear is its OPC. -/
theorem encodeC0_of_fields {c : Cmd} {w : Word} (ho : c.opcode = opcField w)
    (hr : c0Reserved w = 0#24) : encodeC0 c = w := by
  have hr := congrArg BitVec.toNat hr
  rw [toNat_c0Reserved, BitVec.toNat_zero] at hr
  apply BitVec.eq_of_toNat_eq
  rw [toNat_encodeC0, ho, toNat_opcField]
  omega

/-- A word with the reserved bits of format CI clear is its IMM16 and its OPC. -/
theorem encodeCI_of_fields {c : Cmd} {w : Word} (ho : c.opcode = opcField w)
    (hr : ciReserved w = 0#8) : encodeCI c (imm16Field w) = w := by
  have hr := congrArg BitVec.toNat hr
  rw [toNat_ciReserved, BitVec.toNat_zero] at hr
  apply BitVec.eq_of_toNat_eq
  rw [toNat_encodeCI, ho, toNat_opcField, toNat_imm16Field]
  omega

/-- Every command but CSUM_ADDW is of format C0 (R72). -/
theorem Cmd.format_c0 {c : Cmd} (h : c ≠ .csumAddw) :
    (∀ imm, c.word imm = encodeC0 c) ∧ (∀ w, c.reservedZero w = (c0Reserved w == 0#24)) ∧
      ∀ imm imm', c.toInstr imm = c.toInstr imm' := by
  cases c with
  | csumAddw => exact absurd rfl h
  | _ => exact ⟨fun _ => rfl, fun _ => rfl, fun _ _ => rfl⟩

theorem decodeCommand_word (c : Cmd) (imm : Half) :
    decodeCommand (c.word imm) = .ok (c.toInstr imm) := by
  rw [decodeCommand_ok_iff]
  refine ⟨c, ?_⟩
  by_cases hc : c = .csumAddw
  · subst hc
    refine ⟨?_, beq_iff_eq.2 (ciReserved_encodeCI imm),
      congrArg Instr.csumAddw (imm16Field_encodeCI _ imm)⟩
    rw [Cmd.word, opcField_encodeCI]
    rfl
  · obtain ⟨hword, hres, hinstr⟩ := c.format_c0 hc
    rw [hword, hres]
    exact ⟨by rw [opcField_encodeC0, ofOpcode_opcode], beq_iff_eq.2 (c0Reserved_encodeC0 c),
      hinstr _ _⟩

theorem word_of_fields {c : Cmd} {w : Word} (ho : c.opcode = opcField w)
    (hr : c.reservedZero w = true) : c.word (imm16Field w) = w := by
  by_cases hc : c = .csumAddw
  · subst hc
    exact encodeCI_of_fields ho (beq_iff_eq.1 hr)
  · obtain ⟨hword, hres, -⟩ := c.format_c0 hc
    rw [hword]
    exact encodeC0_of_fields ho (beq_iff_eq.1 (hres w ▸ hr))

theorem encode_of_decodeCommand {w : Word} {i : Instr} (h : decodeCommand w = .ok i) :
    encode i = .command w := by
  obtain ⟨c, ho, hr, rfl⟩ := (decodeCommand_ok_iff w i).1 h
  rw [encode_cmd, word_of_fields (opcode_of_ofOpcode ho) hr]

/-! ### Flags fields -/

theorem ofCtrl_eq_some_iff (c : Half) (k : Kind) : Kind.ofCtrl c = some k ↔ c = k.flags :=
  ⟨fun h => (flags_of_ofCtrl h).symm, fun h => h ▸ ofCtrl_flags k⟩

/-- A flags field decodes when its control bits are a kind's value (R69). -/
theorem decodeFlags_ok_iff (mask f : Half) (i : Instr) :
    decodeFlags mask f = .ok i ↔
      ∃ k : Kind, ctrl mask f = k.flags ∧ k.toInstr (hlField f) (rsvField f) = i := by
  simp only [← ofCtrl_eq_some_iff]
  unfold decodeFlags
  cases Kind.ofCtrl (ctrl mask f) <;> simp

theorem decodeFlags_error_iff (mask f : Half) :
    (∃ e, decodeFlags mask f = .error e) ↔ ∀ k : Kind, ctrl mask f ≠ k.flags := by
  simp only [ne_eq, ← ofCtrl_eq_some_iff]
  unfold decodeFlags
  cases Kind.ofCtrl (ctrl mask f) <;> simp

theorem toNat_hlField (f : Half) : (hlField f).toNat = f.toNat / 4096 := by
  have := f.isLt
  simp only [hlField, BitVec.extractLsb'_toNat, Nat.shiftRight_eq_div_pow]
  omega

theorem toNat_rsvField (f : Half) : (rsvField f).toNat = f.toNat / 32 % 128 := by
  simp [rsvField, Nat.shiftRight_eq_div_pow]

theorem toNat_reservedAt (rsv : BitVec 7) : (reservedAt rsv).toNat = rsv.toNat * 32 := by
  have := rsv.isLt
  rw [reservedAt, BitVec.toNat_shiftLeft, BitVec.toNat_setWidth_of_le (by decide),
    Nat.shiftLeft_eq, Nat.mod_eq_of_lt (by omega)]

theorem toNat_kindFlags_lt (k : Kind) : k.flags.toNat < 32 := by
  cases k <;> decide

/-- A flags field as a number: its parts do not overlap (R61). -/
theorem toNat_flagsField (hl : BitVec 4) (rsv : BitVec 7) (k : Kind) :
    (flagsField hl rsv k).toNat = hl.toNat * 4096 + rsv.toNat * 32 + k.flags.toNat := by
  have hhl := hl.isLt
  have hrsv := rsv.isLt
  have hk := toNat_kindFlags_lt k
  have htop : (hl.setWidth 16 <<< 12).toNat = hl.toNat <<< 12 := by
    rw [BitVec.toNat_shiftLeft, BitVec.toNat_setWidth_of_le (by decide), Nat.shiftLeft_eq,
      Nat.mod_eq_of_lt (by omega)]
  have hlow : (reservedAt rsv ||| k.flags).toNat = rsv.toNat * 32 + k.flags.toNat := by
    rw [BitVec.toNat_or, toNat_reservedAt]
    exact (Nat.shiftLeft_eq rsv.toNat 5 ▸ Nat.shiftLeft_add_eq_or_of_lt (by omega) rsv.toNat).symm
  rw [flagsField, BitVec.or_assoc, BitVec.toNat_or, htop, hlow,
    ← Nat.shiftLeft_add_eq_or_of_lt (by omega), Nat.shiftLeft_eq, Nat.add_assoc]

/-- The open bits being the same, two kinds have different bits (R69). -/
theorem Kind.toInstr_injective (hl : BitVec 4) (rsv : BitVec 7) :
    Function.Injective (Kind.toInstr hl rsv) := by
  intro k k' h
  have hf : flagsField hl rsv k = flagsField hl rsv k' :=
    Encoded.flags.inj (by rw [← encode_kind, h, encode_kind])
  have hn := congrArg BitVec.toNat hf
  rw [toNat_flagsField, toNat_flagsField] at hn
  exact Kind.flags_injective (BitVec.eq_of_toNat_eq (by omega))

theorem hlField_flagsField (hl : BitVec 4) (rsv : BitVec 7) (k : Kind) :
    hlField (flagsField hl rsv k) = hl := by
  have := rsv.isLt
  have := toNat_kindFlags_lt k
  apply BitVec.eq_of_toNat_eq
  rw [toNat_hlField, toNat_flagsField]
  omega

theorem rsvField_flagsField (hl : BitVec 4) (rsv : BitVec 7) (k : Kind) :
    rsvField (flagsField hl rsv k) = rsv := by
  have := rsv.isLt
  have := toNat_kindFlags_lt k
  apply BitVec.eq_of_toNat_eq
  rw [toNat_rsvField, toNat_flagsField]
  omega

theorem decodeFlags_flagsField (hl : BitVec 4) (rsv : BitVec 7) (k : Kind) {mask : Half}
    (h1 : mask &&& 0xF000#16 = 0#16) (h2 : mask &&& 0x001F#16 = 0x001F#16)
    (hr : reservedClear mask rsv = true) :
    decodeFlags mask (flagsField hl rsv k) = .ok (k.toInstr hl rsv) := by
  rw [decodeFlags_ok_iff, hlField_flagsField, rsvField_flagsField]
  exact ⟨k, ctrl_flagsField hl rsv k h1 h2 hr, rfl⟩

/-- The five named flags are bits 4 to 0, which every legal mask covers (R62, R65). -/
theorem toNat_kindFlags_of_ctrl {mask f : Half} {k : Kind}
    (hm : mask &&& 0x001F#16 = 0x001F#16) (hc : ctrl mask f = k.flags) :
    k.flags.toNat = f.toNat % 32 := by
  have hlow : k.flags &&& 0x001F#16 = f &&& 0x001F#16 := by
    rw [← hc, ctrl, BitVec.and_assoc, hm]
  calc k.flags.toNat
    _ = (k.flags &&& 0x001F#16).toNat := by rw [kindFlags_and_mask k (by decide)]
    _ = (f &&& 0x001F#16).toNat := by rw [hlow]
    _ = f.toNat % 32 := by
      rw [BitVec.toNat_and]
      exact Nat.and_two_pow_sub_one_eq_mod _ 5

theorem flagsField_of_ctrl {mask f : Half} {k : Kind} (hm : mask &&& 0x001F#16 = 0x001F#16)
    (hc : ctrl mask f = k.flags) : flagsField (hlField f) (rsvField f) k = f := by
  apply BitVec.eq_of_toNat_eq
  rw [toNat_flagsField, toNat_hlField, toNat_rsvField, toNat_kindFlags_of_ctrl hm hc]
  omega

/-- A reserved bit that the mask covers would be a control bit, and the kinds' values have none
there (R65, R69). -/
theorem reservedClear_of_ctrl {mask f : Half} {k : Kind} (hc : ctrl mask f = k.flags) :
    reservedClear mask (rsvField f) = true := by
  have hrsv : reservedAt (rsvField f) = f &&& 0x0FE0#16 := by
    ext i hi
    interval_cases i <;> simp [reservedAt, rsvField]
  refine beq_iff_eq.2 ?_
  calc reservedAt (rsvField f) &&& mask
    _ = f &&& mask &&& 0x0FE0#16 := by
      rw [hrsv, BitVec.and_assoc, BitVec.and_comm 0x0FE0#16, BitVec.and_assoc]
    _ = k.flags &&& 0x0FE0#16 := by rw [← hc, ctrl]
    _ = 0#16 := by cases k <;> decide

/-- The flags field of a decoded kind is put together again from the kind and its open bits. -/
theorem exists_kind_of_decodeFlags {mask f : Half} {i : Instr}
    (hm : mask &&& 0x001F#16 = 0x001F#16) (h : decodeFlags mask f = .ok i) :
    ∃ k hl rsv, i = Kind.toInstr hl rsv k ∧ flagsField hl rsv k = f ∧
      reservedClear mask rsv = true := by
  obtain ⟨k, hc, rfl⟩ := (decodeFlags_ok_iff mask f i).1 h
  exact ⟨k, _, _, rfl, flagsField_of_ctrl hm hc, reservedClear_of_ctrl hc⟩

/-! ### The statements -/

/-- Settles O2, by the two formats. -/
theorem decodeEncodeAgree : Obligations.DecodeEncodeAgree := by
  intro mask i h1 h2 hwf
  obtain ⟨c, imm, rfl⟩ | ⟨k, hl, rsv, rfl⟩ := i.eq_toInstr
  · rw [encode_cmd]
    exact decodeCommand_word c imm
  · rw [encode_kind]
    exact decodeFlags_flagsField hl rsv k h1 h2 (wf_kind mask k hl rsv ▸ hwf)

/-- Settles O3. -/
theorem encodeDecodeAgree : Obligations.EncodeDecodeAgree := by
  refine ⟨fun w i => encode_of_decodeCommand, fun mask f i _ hm h => ?_⟩
  obtain ⟨k, hl, rsv, rfl, rfl, hr⟩ := exists_kind_of_decodeFlags hm h
  exact ⟨encode_kind k hl rsv, (wf_kind mask k hl rsv).trans hr⟩

/-- Settles O5: the kinds have different values and are different instructions. -/
theorem segmentKindIsThePattern : Obligations.SegmentKindIsThePattern := by
  refine ⟨rfl, rfl, rfl, rfl, rfl, fun mask f => ⟨fun k => ?_, decodeFlags_error_iff mask f⟩⟩
  rw [decodeFlags_ok_iff]
  constructor
  · rintro ⟨k', hc, hi⟩
    exact Kind.toInstr_injective _ _ hi ▸ hc
  · exact fun hc => ⟨k, hc, rfl⟩

/-- Settles O1. -/
theorem commandWordsDecode : Obligations.CommandWordsDecode := by
  unfold Obligations.CommandWordsDecode
  decide

end Sys2Proof
end

section
/-! The header length in the flags field, as arithmetic on its top nibble (30_encoding.md R64,
R67). -/

namespace Sys2Proof.Machine

open Sys2Proof

theorem toNat_and_F000 (v : Half) : (v &&& 0xF000#16).toNat = v.toNat / 4096 * 4096 := by
  have e : v &&& 0xF000#16 = v >>> 12 <<< 12 := by
    ext i hi
    interval_cases i <;> simp
  have := v.isLt
  rw [e, BitVec.toNat_shiftLeft, BitVec.toNat_ushiftRight, Nat.shiftRight_eq_div_pow,
    Nat.shiftLeft_eq]
  omega

theorem toNat_and_0FFF (v : Half) : (v &&& 0x0FFF#16).toNat = v.toNat % 4096 := by
  rw [BitVec.toNat_and]
  exact Nat.and_two_pow_sub_one_eq_mod _ 12

theorem hlen_eq_nibble (f : Half) : hlen f = ((f >>> 12) &&& 0x000F#16).toNat * 4 := by
  have hlow : ((f >>> 12) &&& 0x000F#16).toNat = f.toNat / 4096 % 16 := by
    rw [BitVec.toNat_and, BitVec.toNat_ushiftRight, Nat.shiftRight_eq_div_pow]
    exact Nat.and_two_pow_sub_one_eq_mod _ 4
  have := f.isLt
  rw [hlen_eq, hlow]
  omega

/-- `mkflags` as a number: the nibble of `h`, and the low twelve bits of `c`. -/
theorem toNat_mkflags (h : Nat) (c : Half) :
    (mkflags h c).toNat = h * 1024 % 65536 / 4096 * 4096 + c.toNat % 4096 := by
  have hsh : (BitVec.ofNat 16 h <<< 10).toNat = h * 1024 % 65536 := by
    rw [BitVec.toNat_shiftLeft, BitVec.toNat_ofNat, Nat.shiftLeft_eq]
    omega
  rw [mkflags, BitVec.toNat_or, toNat_and_F000, toNat_and_0FFF, hsh]
  have := Nat.shiftLeft_add_eq_or_of_lt (i := 12) (b := c.toNat % 4096) (by omega)
    (h * 1024 % 65536 / 4096)
  rw [Nat.shiftLeft_eq] at this
  exact this.symm

theorem hlen_mkflags {h : Nat} (c : Half) (hle : h ≤ 60) (h4 : h % 4 = 0) :
    hlen (mkflags h c) = h := by
  rw [hlen_eq, toNat_mkflags]
  omega

theorem mkflags_and_0FFF (h : Nat) (c : Half) :
    mkflags h c &&& 0x0FFF#16 = c &&& 0x0FFF#16 := by
  apply BitVec.eq_of_toNat_eq
  rw [toNat_and_0FFF, toNat_and_0FFF, toNat_mkflags]
  omega

theorem and_0FFF_of_control {c : Half} (hc : c &&& 0xF000#16 = 0#16) : c &&& 0x0FFF#16 = c := by
  have hc := congrArg BitVec.toNat hc
  rw [toNat_and_F000, BitVec.toNat_zero] at hc
  apply BitVec.eq_of_toNat_eq
  rw [toNat_and_0FFF]
  omega

theorem mkflags_20 {c : Half} (hc : c &&& 0xF000#16 = 0#16) : mkflags 20 c = 0x5000#16 ||| c := by
  rw [mkflags, and_0FFF_of_control hc]
  rfl

/-- Settles O6. -/
theorem headerLengthArithmetic : Obligations.HeaderLengthArithmetic :=
  ⟨fun f => ⟨rfl, hlen_eq_nibble f⟩, fun _ _ => rfl,
    fun h c hle h4 => ⟨hlen_mkflags c hle h4, mkflags_and_0FFF h c⟩, fun _ => mkflags_20,
    fun _ => rfl⟩

end Sys2Proof.Machine
end

section
/-! RECV skips the segments it does not look for (42_fsm.md R135, R142). -/

namespace Sys2Proof.Machine

open Sys2Proof

/-- Any other control bits than PSH-ACK leave the block in its wait (R142 a). -/
theorem recvDecide_skips {s : State} (h : segCtrl s ≠ Kind.pshAck.flags) : recvDecide s = s :=
  if_neg h

theorem exec_kind_recv_skips {k : Kind} {hl : BitVec 4} {rsv : BitVec 7} {s : State} {T : Segment}
    (hk : k ≠ .pshAck) (hcfg : s.cfg.Legal) (hw : Waiting .recv s) (hm : Matches s T)
    (hr : reservedClear s.cfg.flagMask rsv = true) (ho : Offered s (flagsField hl rsv k) T) :
    exec (k.toInstr hl rsv) s = .next (storeSegment T s) := by
  obtain ⟨-, hp, hcur⟩ := hw
  have hctrl := segCtrl_storeSegment_offered hcfg ho hr
  rw [exec_kind_matching hp ho hm, decideMatch_recv (s := storeSegment T s) hcur,
    recvDecide_skips (hctrl ▸ Kind.flags_injective.ne hk)]

/-- Whatever its flags field, a datagram that a waiting command takes gets one turn of `wait_match`
on that field: a kind's instruction puts the same field together again (log 10, 19). -/
theorem step_datagram_turn {s : State} {B : List Byte} {rest : List Input} (hcfg : s.cfg.Legal)
    (hi : s.env.inbox = .link (.dgram B) :: rest) (hp : s.hid.phase = .rxWait) :
    step s = .next (rxSegment (be16 (B.take s.cfg.maxSeg) 12) (taken B s)) := by
  obtain ⟨-, -, -, hflags⟩ := hcfg
  obtain h | ⟨i, hd, -, -, h⟩ := step_datagram hi hp
  · exact h
  · obtain ⟨k, hl, rsv, rfl, hf, -⟩ := exists_kind_of_decodeFlags hflags hd
    rw [h, exec_kind, hf]

/-- A matching segment that the link offers lets the waiting command decide. -/
theorem step_datagram_matching {s : State} {B : List Byte} {T : Segment} {rest : List Input}
    (hcfg : s.cfg.Legal) (hi : s.env.inbox = .link (.dgram B) :: rest)
    (hp : s.hid.phase = .rxWait) (hd : decodeSegment (B.take s.cfg.maxSeg) = .ok T)
    (hm : Matches s T) : step s = .next (decideMatch (storeSegment T (taken B s))) := by
  have hd : decodeAs (be16 (B.take s.cfg.maxSeg) 12) (bufBytes (taken B s)) = .ok T := by
    rw [bufBytes_taken B hcfg]
    exact hd
  rw [step_datagram_turn hcfg hi hp, rxSegment_matching (s := taken B s) hp hd hm]

/-- Settles O43. -/
theorem recvSkipsOtherKinds : Obligations.RecvSkipsOtherKinds := by
  refine ⟨fun s hl rsv T hcfg hw hm hr => ⟨?_, ?_, ?_, ?_⟩,
    fun s B T rest hcfg ⟨_, hp, hcur⟩ hi hd hm hne => ?_⟩
  · exact exec_kind_recv_skips (k := .syn) nofun hcfg hw hm hr
  · exact exec_kind_recv_skips (k := .synAck) nofun hcfg hw hm hr
  · exact exec_kind_recv_skips (k := .ack) nofun hcfg hw hm hr
  · exact exec_kind_recv_skips (k := .finAck) nofun hcfg hw hm hr
  · rw [step_datagram_matching hcfg hi hp hd hm,
      decideMatch_recv (s := storeSegment T (taken B s)) hcur,
      recvDecide_skips (s := storeSegment T (taken B s)) hne]

end Sys2Proof.Machine
end

section
/-! `sum16` over words, over regions and over the wire's numbers (40_checksum.md R90 to R92). -/

namespace Sys2Proof.Machine

open Sys2Proof

@[simp] theorem sum16_nil : sum16 [] = 0 := rfl

@[simp] theorem sum16_singleton (a : Byte) : sum16 [a] = a.toNat * 256 := rfl

@[simp] theorem sum16_cons_cons (a b : Byte) (rest : List Byte) :
    sum16 (a :: b :: rest) = a.toNat * 256 + b.toNat + sum16 rest := rfl

/-- Words keep their places behind an even number of bytes (R92). -/
theorem sum16_append {A : List Byte} (h : A.length % 2 = 0) (B : List Byte) :
    sum16 (A ++ B) = sum16 A + sum16 B := by
  induction A using sum16.induct with
  | case1 => simp
  | case2 a => simp at h
  | case3 a b rest ih =>
    have hrest : rest.length % 2 = 0 := by
      simp only [List.length_cons] at h
      omega
    simp [ih hrest, Nat.add_assoc]

/-- A lone last byte is the high byte of a word (R91). -/
theorem sum16_concat {A : List Byte} (h : A.length % 2 = 0) (a : Byte) :
    sum16 (A ++ [a]) = sum16 A + a.toNat * 256 :=
  sum16_append h [a]

/-- Dropping a word moves the words behind it down by one. -/
theorem be16_cons_cons (a b : Byte) (rest : List Byte) (i : Nat) :
    be16 (a :: b :: rest) (i + 2) = be16 rest i := rfl

theorem be16_head (a b : Byte) (rest : List Byte) :
    (be16 (a :: b :: rest) 0).toNat = a.toNat * 256 + b.toNat :=
  be16_toNat _ _

theorem sum16_eq_sum_be16 {B : List Byte} (h : B.length % 2 = 0) :
    sum16 B = ((List.range (B.length / 2)).map fun i => (be16 B (2 * i)).toNat).sum := by
  induction B using sum16.induct with
  | case1 => rfl
  | case2 a => simp at h
  | case3 a b rest ih =>
    have hlen : (a :: b :: rest).length / 2 = rest.length / 2 + 1 := by
      simp only [List.length_cons]
      omega
    have hrest : rest.length % 2 = 0 := by
      simp only [List.length_cons] at h
      omega
    have htail : ∀ i, be16 (a :: b :: rest) (2 * (i + 1)) = be16 rest (2 * i) :=
      fun i => be16_cons_cons a b rest (2 * i)
    rw [hlen, List.range_succ_eq_map, List.map_cons, List.map_map, List.sum_cons, Nat.mul_zero,
      be16_head, sum16_cons_cons, ih hrest]
    simp only [Function.comp_def, Nat.succ_eq_add_one, htail]

/-- A region of `n` bytes has `(n + 1) / 2` words (R92). -/
theorem sum16_le (B : List Byte) : sum16 B ≤ 65535 * ((B.length + 1) / 2) := by
  induction B using sum16.induct with
  | case1 => simp
  | case2 a =>
    have := a.isLt
    simp only [sum16_singleton, List.length_singleton]
    omega
  | case3 a b rest ih =>
    have := a.isLt
    have := b.isLt
    simp only [sum16_cons_cons, List.length_cons]
    omega

@[simp] theorem sum16_bytes16 (v : Half) : sum16 (bytes16 v) = v.toNat := by
  have := congrArg BitVec.toNat (bytes16_join v)
  rw [toNat_append_eq] at this
  rw [bytes16, sum16_cons_cons, sum16_nil, Nat.add_zero]
  exact this

theorem sum16_bytes16_append (v : Half) (B : List Byte) :
    sum16 (bytes16 v ++ B) = v.toNat + sum16 B := by
  rw [sum16_append (by simp), sum16_bytes16]

theorem bytes32_eq_append (v : Word) :
    bytes32 v = bytes16 (v.extractLsb' 16 16) ++ bytes16 (v.extractLsb' 0 16) := by
  rw [← bytes32_append]
  congr 1
  apply BitVec.eq_of_toNat_eq
  have := v.isLt
  simp only [toNat_append_eq, BitVec.extractLsb'_toNat, Nat.shiftRight_eq_div_pow]
  omega

theorem sum16_bytes32 (v : Word) :
    sum16 (bytes32 v) = (v.extractLsb' 16 16).toNat + (v.extractLsb' 0 16).toNat := by
  rw [bytes32_eq_append, sum16_bytes16_append, sum16_bytes16]

theorem sum16_bytes32_append (v : Word) (B : List Byte) :
    sum16 (bytes32 v ++ B) = sum16 (bytes32 v) + sum16 B :=
  sum16_append (by simp) B

/-- A series of regions has as many words as its regions together (R100). -/
theorem sum_sum16_le (R : List (List Byte)) :
    (R.map sum16).sum ≤ 65535 * (R.map fun B => (B.length + 1) / 2).sum := by
  induction R with
  | nil => simp
  | cons B R ih =>
    have := sum16_le B
    simp only [List.map_cons, List.sum_cons]
    omega

/-- Settles O21. -/
theorem sum16WordsAndLaws : Obligations.Sum16WordsAndLaws := by
  refine ⟨fun B => sum16_eq_sum_be16, fun B h => ?_, fun A B h => sum16_append h B, by decide,
    fun R R' h => (h.map sum16).sum_eq, sum16_le⟩
  obtain rfl | ⟨A, a, rfl⟩ := B.eq_nil_or_concat'
  · simp at h
  · have hA : A.length % 2 = 0 := by
      rw [List.length_append, List.length_singleton] at h
      omega
    simp [sum16_concat hA, Nat.shiftLeft_eq]

end Sys2Proof.Machine
end

section
/-! The fold loop and `compile` as arithmetic on numbers (40_checksum.md R96). -/

namespace Sys2Proof.Machine

open Sys2Proof

/-! ### fold -/

theorem foldLoop_of_done (n : Nat) {s : Word} (h : s >>> 16 = 0#32) : foldLoop n s = s := by
  cases n with
  | zero => rfl
  | succ n => exact if_pos h

theorem foldLoop_succ (n : Nat) {s : Word} (h : s >>> 16 ≠ 0#32) :
    foldLoop (n + 1) s = foldLoop n (foldPass s) := if_neg h

theorem foldPass_le (s : Word) : (foldPass s).toNat ≤ 0x1FFFE := by
  have := s.isLt
  rw [foldPass_toNat]
  omega

/-- Two passes are enough for a 32-bit value (R96). -/
theorem foldPass_foldPass_done (s : Word) : foldPass (foldPass s) >>> 16 = 0#32 := by
  have := foldPass_le s
  rw [shiftRight16_eq_zero, foldPass_toNat (foldPass s)]
  omega

theorem fold_of_done {s : Word} (h : s >>> 16 = 0#32) : fold s = s := foldLoop_of_done 2 h

/-- The loop runs until the high half is zero. -/
theorem fold_of_not_done {s : Word} (h : s >>> 16 ≠ 0#32) : fold s = fold (foldPass s) := by
  rw [fold, foldLoop_succ 1 h, fold]
  by_cases hp : foldPass s >>> 16 = 0#32
  · rw [foldLoop_of_done 1 hp, foldLoop_of_done 2 hp]
  · rw [foldLoop_succ 0 hp, foldLoop_succ 1 hp, foldLoop_of_done 1 (foldPass_foldPass_done s),
      foldLoop]

theorem fold_done (s : Word) : fold s >>> 16 = 0#32 := by
  by_cases h : s >>> 16 = 0#32
  · rwa [fold_of_done h]
  · rw [fold_of_not_done h]
    by_cases hp : foldPass s >>> 16 = 0#32
    · rwa [fold_of_done hp]
    · rw [fold_of_not_done hp, fold_of_done (foldPass_foldPass_done s)]
      exact foldPass_foldPass_done s

theorem fold_lt (s : Word) : (fold s).toNat < 65536 :=
  (shiftRight16_eq_zero _).1 (fold_done s)

/-- What one pass keeps, the loop keeps. -/
theorem foldLoop_keeps {α : Type} {φ : Word → α} (h : ∀ s, φ (foldPass s) = φ s) (n : Nat)
    (s : Word) : φ (foldLoop n s) = φ s := by
  induction n generalizing s with
  | zero => rfl
  | succ n ih =>
    by_cases hs : s >>> 16 = 0#32
    · rw [foldLoop_of_done _ hs]
    · rw [foldLoop_succ n hs, ih, h]

/-- The residue modulo 65535: 65536 is congruent to 1 (R96). -/
theorem fold_mod (s : Word) : (fold s).toNat % 65535 = s.toNat % 65535 :=
  foldLoop_keeps (φ := fun s => s.toNat % 65535)
    (fun s => by
      show (foldPass s).toNat % 65535 = s.toNat % 65535
      rw [foldPass_toNat]
      omega) 2 s

theorem toNat_eq_zero_iff (s : Word) : s.toNat = 0 ↔ s = 0#32 := by
  rw [← BitVec.toNat_inj]
  rfl

theorem foldPass_eq_zero_iff (s : Word) : foldPass s = 0#32 ↔ s = 0#32 := by
  rw [← toNat_eq_zero_iff, ← toNat_eq_zero_iff, foldPass_toNat]
  omega

theorem fold_eq_zero_iff (s : Word) : fold s = 0#32 ↔ s = 0#32 :=
  iff_of_eq (foldLoop_keeps (φ := (· = 0#32)) (fun s => propext (foldPass_eq_zero_iff s)) 2 s)

/-- A positive multiple of 65535 folds to 0xFFFF, the other zero of the one's complement sum. -/
theorem fold_of_mod_zero {s : Word} (hs : s.toNat ≠ 0) (hmod : s.toNat % 65535 = 0) :
    fold s = 0x0000FFFF#32 := by
  have hres := fold_mod s
  have hfold := fold_lt s
  have hpos : (fold s).toNat ≠ 0 := by
    rwa [Ne, toNat_eq_zero_iff, fold_eq_zero_iff, ← toNat_eq_zero_iff]
  apply BitVec.eq_of_toNat_eq
  show _ = 65535
  omega

/-! ### compile -/

theorem compile_toNat (s : Word) : (compile s).toNat = 0xFFFF - (fold s).toNat := by
  have := fold_lt s
  rw [compile, BitVec.toNat_setWidth, BitVec.toNat_not]
  omega

theorem compile_setWidth (s : Word) : (compile s).setWidth 32 = ~~~(fold s) &&& 0xFFFF#32 := by
  apply BitVec.eq_of_toNat_eq
  rw [BitVec.toNat_setWidth_of_le (by decide), compile, BitVec.toNat_setWidth, BitVec.toNat_and]
  exact (Nat.and_two_pow_sub_one_eq_mod _ 16).symm

theorem compile_eq_zero_iff (s : Word) : compile s = 0x0000#16 ↔ fold s = 0x0000FFFF#32 := by
  have := fold_lt s
  rw [← BitVec.toNat_inj, ← BitVec.toNat_inj, compile_toNat]
  show _ = 0 ↔ _ = 65535
  omega

/-- A positive sum and its compiled value fold to 0xFFFF together, where adding them does not wrap:
they add up to a positive multiple of 65535. -/
theorem fold_add_compile {s : Word} (hs : s.toNat ≠ 0) (hlt : s.toNat + 65535 < 2 ^ 32) :
    fold (s + (compile s).setWidth 32) = 0x0000FFFF#32 := by
  have hres := fold_mod s
  have hfold := fold_lt s
  have hadd : (s + (compile s).setWidth 32).toNat = s.toNat + (0xFFFF - (fold s).toNat) := by
    rw [BitVec.toNat_add, BitVec.toNat_setWidth_of_le (by decide), compile_toNat,
      Nat.mod_eq_of_lt (by omega)]
  exact fold_of_mod_zero (by omega) (by omega)

theorem pseudoSum_pos (src dst : Word) (n : Nat) : 0 < pseudoSum src dst n := by
  rw [pseudoSum]
  omega

/-- Settles O22. -/
theorem foldAndCompile : Obligations.FoldAndCompile :=
  ⟨fun s => ⟨fold_of_done, fold_of_not_done, foldPass_le s, foldPass_foldPass_done s,
    Nat.le_of_lt_succ (fold_lt s), fold_mod s, fold_eq_zero_iff s, compile_setWidth s,
    compile_toNat s, compile_eq_zero_iff s⟩, pseudoSum_pos⟩

end Sys2Proof.Machine
end

section
/-! The checksum of a segment (40_checksum.md R98, R100; 95_test_vectors.md V-C11). -/

namespace Sys2Proof.Machine

open Sys2Proof

theorem pseudoSum_comm (src dst : Word) (n : Nat) : pseudoSum src dst n = pseudoSum dst src n := by
  rw [pseudoSum, pseudoSum, Nat.add_comm (sum16 (bytes32 src))]

/-- The pseudo-header in bytes (30_encoding.md R70), before any other bytes. -/
theorem sum16_pseudoHeader (src dst : Word) {n : Nat} (hn : n ≤ 65535) (B : List Byte) :
    sum16 (bytes32 src ++ bytes32 dst ++ [0x00#8, 0x06#8] ++ bytes16 (BitVec.ofNat 16 n) ++ B) =
      pseudoSum src dst n + sum16 B := by
  have hproto : sum16 ([0x00#8, 0x06#8] ++ (bytes16 (BitVec.ofNat 16 n) ++ B)) =
      0x0006 + (n + sum16 B) := by
    rw [sum16_append rfl, sum16_bytes16_append, BitVec.toNat_ofNat, Nat.mod_eq_of_lt (by omega)]
    rfl
  simp only [pseudoSum, List.append_assoc, sum16_bytes32_append, hproto, Nat.add_assoc]

/-- The accumulator of a checksum is far from wrapping (R100). -/
theorem pseudoSum_add_sum16_le (src dst : Word) {n : Nat} (hn : n ≤ 65535) {B : List Byte}
    (hB : B.length = n) : pseudoSum src dst n + sum16 B ≤ 65535 * 32773 + 6 := by
  have hs := sum16_le (bytes32 src)
  have hd := sum16_le (bytes32 dst)
  have hb := sum16_le B
  rw [length_bytes32] at hs hd
  rw [pseudoSum]
  omega

/-- The checksum field is a word of its own in the header. -/
theorem sum16_encodeSegment_withChecksum (T : Segment) (c : Half) :
    sum16 (encodeSegment (T.withChecksum c)) =
      sum16 (encodeSegment (T.withChecksum 0#16)) + c.toNat := by
  simp only [encodeSegment, headerBytes, Segment.withChecksum, List.append_assoc,
    sum16_bytes16_append, sum16_bytes32_append, BitVec.toNat_zero]
  omega

/-- Settles O23. -/
theorem tcpsumCoversThePseudoHeader : Obligations.TcpsumCoversThePseudoHeader := by
  refine ⟨fun src dst T hT => ⟨?_, sum16_bytes32 src, length_encodeSegment _, ?_, ?_⟩,
    fun src dst T c => ⟨?_, rfl⟩, fun R hR => ?_⟩
  · rw [length_encodeSegment]
    rfl
  · rw [sum16_pseudoHeader src dst hT]
    rfl
  · have := pseudoSum_add_sum16_le src dst hT (length_encodeSegment (T.withChecksum 0#16))
    omega
  · rw [tcpsum, tcpsum, pseudoSum_comm]
  · have := sum_sum16_le R
    omega

/-- Settles O24: the finished segment adds the compiled sum to the sum it was compiled from. -/
theorem finishedSegmentChecks : Obligations.FinishedSegmentChecks := by
  intro src dst T hT
  have hpos := pseudoSum_pos src dst T.length
  have hmax := pseudoSum_add_sum16_le src dst hT (length_encodeSegment (T.withChecksum 0#16))
  have hn := Nat.mod_eq_of_lt (hmax.trans_lt (by decide : 65535 * 32773 + 6 < 2 ^ 32))
  rw [sum16_encodeSegment_withChecksum, ← Nat.add_assoc, BitVec.ofNat_add, BitVec.ofNat_toNat]
  apply fold_add_compile <;> rw [BitVec.toNat_ofNat, hn] <;> omega

end Sys2Proof.Machine
end

section
/-! The five commands of the checksum unit on an idle block (40_checksum.md R93 to R99). -/

namespace Sys2Proof.Machine

open Sys2Proof

/-- A command that ends with `done` after an update that leaves the block idle. -/
theorem issue_done_idle (run : State → State) (n : Word) {s : State} (h : Idle s)
    (hr : Idle (run s)) :
    issue (fun s => done n (run s)) s = { run s with cc.result := .ok, cc.count := n } :=
  (issue_idle _ h.1).trans (done_idle n hr)

theorem ofNat_toNat_add (v : Word) (n : Nat) :
    BitVec.ofNat 32 (v.toNat + n) = v + BitVec.ofNat 32 n := by
  rw [BitVec.ofNat_add, BitVec.ofNat_toNat, BitVec.setWidth_eq]

/-- An illegal word written to CMD of an idle block (60_exceptions.md R172). -/
theorem step_illegal {s : State} {w : Word} {rest : List Input} {e : DecodeError} (h : Idle s)
    (hi : s.env.inbox = .host (.write .cmd w) :: rest) (hd : decodeCommand w = .error e) :
    step s = .next { s with
      cc.result := .eIllegalCmd, env.inbox := rest, env.reply := .ok } := by
  have hf : fetch s = .settled (raise .eIllegalCmd 0#32 (answer .ok (popInput s))) := by
    rw [fetch_host hi]
    simp [fetchHost, fetchCommand, h.1, hd]
  rw [step_settled hf, answer_popInput hi]
  exact congrArg _ (raise_idle (c := .eIllegalCmd) nofun 0#32 h)

/-- The opcode of CSUM_ADDW with a reserved bit set (R94). -/
theorem decodeCommand_csumAddw_reserved {w : Word} (ho : opcField w = 0x03#8)
    (hr : w >>> 24 ≠ 0#32) : decodeCommand w = .error (.reservedBits w) := by
  have hci : ciReserved w ≠ 0#8 := by
    intro h
    have h := congrArg BitVec.toNat h
    rw [toNat_ciReserved] at h
    exact hr (BitVec.eq_of_toNat_eq (by
      rwa [BitVec.toNat_ushiftRight, Nat.shiftRight_eq_div_pow]))
  have hc : Cmd.ofOpcode 0x03#8 = some .csumAddw := ofOpcode_opcode .csumAddw
  rw [decodeCommand, ho, hc]
  simp [Cmd.reservedZero, hci]

/-- Settles O18. -/
theorem csumAddwAddsTheImmediate : Obligations.CsumAddwAddsTheImmediate := by
  refine fun imm => ⟨decodeCommand_word .csumAddw imm, fun _ h => ?_, sum16_bytes16 imm,
    fun _ _ _ h hi ho hr => step_illegal h hi (decodeCommand_csumAddw_reserved ho hr)⟩
  rw [ofNat_toNat_add, BitVec.ofNat_toNat]
  exact congrArg _ (issue_done_idle _ 0#32 h h)

/-- Settles O16. -/
theorem csumClrZeroesSum : Obligations.CsumClrZeroesSum :=
  ⟨decodeCommand_word .csumClr 0#16, fun _ h => congrArg _ (issue_done_idle _ 0#32 h h)⟩

/-- Settles O17. -/
theorem csumAddAddsTheBuffer : Obligations.CsumAddAddsTheBuffer := by
  refine ⟨decodeCommand_word .csumAdd 0#16, fun _ h => ?_, by decide, rfl⟩
  rw [ofNat_toNat_add]
  exact congrArg _ (issue_done_idle _ 0#32 h h)

/-- Settles O19. -/
theorem csumFinCompilesSum : Obligations.CsumFinCompilesSum :=
  ⟨decodeCommand_word .csumFin 0#16, fun _ h => congrArg _ (issue_done_idle _ 0#32 h h), by decide⟩

theorem exec_csumSeg_fits {s : State} (h : Idle s) (hl : segLen s ≤ s.cfg.maxSeg) :
    exec .csumSeg s =
      .next (done 0#32 { s with seg.hdr.checksum := tcpsum s.laddr s.ctx.paddr (segOf s) }) := by
  rw [exec, execCsumSeg, issue_idle _ h.1, if_neg (Nat.not_lt.2 hl)]

theorem exec_csumSeg_tooLong {s : State} (h : Idle s) (hl : s.cfg.maxSeg < segLen s) :
    exec .csumSeg s = .next (raise .eTooLong 0#32 s) := by
  rw [exec, execCsumSeg, issue_idle _ h.1, if_pos hl]

/-- Settles O20. -/
theorem csumSegFillsTheChecksum : Obligations.CsumSegFillsTheChecksum := by
  refine ⟨decodeCommand_word .csumSeg 0#16, fun s h => ⟨fun hl => ?_, fun hl => ?_⟩, by decide⟩
  · rw [exec_csumSeg_fits h hl]
    exact congrArg _ (done_idle 0#32 h)
  · rw [exec_csumSeg_tooLong h hl, raise_idle (c := .eTooLong) nofun 0#32 h]

end Sys2Proof.Machine
end

section
/-! The wire format read and written back (41_codec.md R110, R113 to R115). -/

namespace Sys2Proof.Machine

open Sys2Proof

/-! ### Encoding what was decoded -/

/-- The two bytes a 16-bit field is read from, written behind the bytes before them. -/
theorem take_append_bytes16 {B : List Byte} {i : Nat} (h : i + 2 ≤ B.length) :
    B.take i ++ bytes16 (be16 B i) = B.take (i + 2) := by
  rw [be16, bytes16_append, List.take_succ_eq_append_getElem (show i + 1 < B.length by omega),
    List.take_succ_eq_append_getElem (show i < B.length by omega),
    List.getD_eq_getElem _ _ (show i < B.length by omega),
    List.getD_eq_getElem _ _ (show i + 1 < B.length by omega), List.append_assoc]
  rfl

/-- The four bytes a 32-bit field is read from, written behind the bytes before them. -/
theorem take_append_bytes32 {B : List Byte} {i : Nat} (h : i + 4 ≤ B.length) :
    B.take i ++ bytes32 (be32 B i) = B.take (i + 4) := by
  rw [be32, bytes32_append, ← List.append_assoc, take_append_bytes16 (by omega),
    take_append_bytes16 (by omega)]

/-- The header fields cover the first twenty bytes in order. -/
theorem headerBytes_sliceSegment {B : List Byte} (h20 : 20 ≤ B.length) (h : Nat) :
    headerBytes (sliceSegment (be16 B 12) h B).hdr = B.take 20 := by
  have h0 : bytes16 (be16 B 0) = B.take 2 := take_append_bytes16 (i := 0) (by omega)
  simp (disch := omega) only [headerBytes, sliceSegment, h0, take_append_bytes16,
    take_append_bytes32]

/-- R114 (a): the header is written back, and the two slices behind it meet at `h`. -/
theorem encodeSegment_of_decodeSegment {B : List Byte} {T : Segment}
    (hd : decodeSegment B = .ok T) : encodeSegment T = B := by
  obtain ⟨h20, hmin, -, rfl⟩ := (decodeAs_ok_iff _ B T).1 hd
  obtain ⟨k, hk⟩ : ∃ k, hlen (be16 B 12) = 20 + k := ⟨_, (Nat.add_sub_of_le hmin).symm⟩
  rw [encodeSegment, headerBytes_sliceSegment h20, hk]
  simp only [sliceSegment]
  rw [Nat.add_sub_cancel_left, ← List.take_add, List.take_append_drop]

/-! ### Decoding what was encoded -/

theorem be16_bytes16_append (v : Half) (B : List Byte) : be16 (bytes16 v ++ B) 0 = v :=
  bytes16_join v

theorem be32_bytes32_append (v : Word) (B : List Byte) : be32 (bytes32 v ++ B) 0 = v :=
  bytes32_join v

/-! A number that stands behind a field is read as if the field were not there. -/

theorem be16_behind16 (v : Half) (B : List Byte) (i : Nat) :
    be16 (bytes16 v ++ B) (i + 2) = be16 B i := rfl

theorem be16_behind32 (v : Word) (B : List Byte) (i : Nat) :
    be16 (bytes32 v ++ B) (i + 4) = be16 B i := rfl

theorem be32_behind16 (v : Half) (B : List Byte) (i : Nat) :
    be32 (bytes16 v ++ B) (i + 2) = be32 B i := rfl

theorem be32_behind32 (v : Word) (B : List Byte) (i : Nat) :
    be32 (bytes32 v ++ B) (i + 4) = be32 B i := rfl

theorem be16_encodeSegment_flags (T : Segment) : be16 (encodeSegment T) 12 = T.hdr.flags := by
  simp only [encodeSegment, headerBytes, List.append_assoc, be16_behind16, be16_behind32,
    be16_bytes16_append]

/-- Every header field is read from where it was written. -/
theorem sliceSegment_encodeSegment_hdr (T : Segment) (h : Nat) :
    (sliceSegment T.hdr.flags h (encodeSegment T)).hdr = T.hdr := by
  simp only [sliceSegment, encodeSegment, headerBytes, List.append_assoc, be16_behind16,
    be16_behind32, be32_behind16, be32_behind32, be16_bytes16_append, be32_bytes32_append]

/-- The options and the payload are cut where they were joined, if the header length says so. -/
theorem sliceSegment_encodeSegment {T : Segment} (h : hlen T.hdr.flags = 20 + T.opt.length) :
    sliceSegment T.hdr.flags (hlen T.hdr.flags) (encodeSegment T) = T := by
  have hcut : (encodeSegment T).drop 20 = T.opt ++ T.pay := by
    rw [encodeSegment, List.append_assoc]
    rfl
  refine (Segment.mk.injEq ..).mpr
    ⟨sliceSegment_encodeSegment_hdr T (hlen T.hdr.flags), ?_, ?_⟩
  · rw [hcut, h, Nat.add_sub_cancel_left, List.take_left]
  · rw [h, ← List.drop_drop, hcut, List.drop_left]

/-- R114 (b), at every length. -/
theorem decodeSegment_encodeSegment {T : Segment} (h : hlen T.hdr.flags = 20 + T.opt.length) :
    decodeSegment (encodeSegment T) = .ok T := by
  rw [decodeSegment, be16_encodeSegment_flags, decodeAs_ok_iff, length_encodeSegment,
    Segment.length, h]
  exact ⟨by omega, by omega, by omega, h ▸ (sliceSegment_encodeSegment h).symm⟩

/-- A decoded segment is well formed (10_state.md R22). -/
theorem hlen_of_decodeSegment {B : List Byte} {T : Segment} (hd : decodeSegment B = .ok T) :
    hlen T.hdr.flags = 20 + T.opt.length := by
  obtain ⟨-, hmin, -, -⟩ := (decodeAs_ok_iff _ B T).1 hd
  rw [flags_of_decodeAs hd, (length_opt_of_decodeAs hd).1]
  omega

/-- Settles O28: what `decode` gives is well formed, so an ill-formed segment is not given back. -/
theorem codecRoundTrips : Obligations.CodecRoundTrips :=
  ⟨fun _ _ => encodeSegment_of_decodeSegment, fun _ => decodeSegment_encodeSegment,
    fun _ h hd => h (hlen_of_decodeSegment hd)⟩

/-! ### The fields and the sizes -/

theorem hlen_be16 (B : List Byte) (i : Nat) :
    hlen (be16 B i) = 4 * ((B.getD i 0#8).toNat / 16) := by
  have := (B.getD (i + 1) 0#8).isLt
  rw [hlen_eq, be16_toNat]
  omega

theorem be32_toNat_bytes (B : List Byte) (i : Nat) :
    (be32 B i).toNat = (B.getD i 0#8).toNat * 2 ^ 24 + (B.getD (i + 1) 0#8).toNat * 2 ^ 16 +
      (B.getD (i + 2) 0#8).toNat * 2 ^ 8 + (B.getD (i + 3) 0#8).toNat := by
  rw [be32_toNat, be16_toNat, be16_toNat, Nat.add_assoc i 2 1]
  omega

/-- Settles O25. -/
theorem decodeReadsEveryField : Obligations.DecodeReadsEveryField := by
  intro B n h byte
  have hh : hlen (be16 B 12) = h := hlen_be16 B 12
  rw [decodeSegment, decodeAs, hh]
  refine ⟨fun hn => if_pos hn, fun hn hlow => ?_, fun hn hmin hhigh => ?_,
    fun hn hmin hmax => ⟨sliceSegment (be16 B 12) h B, ?_, ?_⟩⟩
  · rw [if_neg (Nat.not_lt.2 hn), if_pos hlow]
  · rw [if_neg (Nat.not_lt.2 hn), if_neg (Nat.not_lt.2 hmin), if_pos hhigh]
  · rw [if_neg (Nat.not_lt.2 hn), if_neg (Nat.not_lt.2 hmin), if_neg (Nat.not_lt.2 hmax)]
  · exact ⟨be16_toNat B 0, be16_toNat B 2, be32_toNat_bytes B 4, be32_toNat_bytes B 8,
      be16_toNat B 12, be16_toNat B 14, be16_toNat B 16, be16_toNat B 18, rfl, rfl⟩

/-- The sizes of a decoded segment add up to the datagram's (R111). -/
theorem length_of_decodeSegment {B : List Byte} {T : Segment} (hd : decodeSegment B = .ok T) :
    T.length = B.length := by
  rw [← length_encodeSegment, encodeSegment_of_decodeSegment hd]

/-- Options are a whole number of 32-bit words (R115). -/
theorem length_opt_mod_four {B : List Byte} {T : Segment} (hd : decodeSegment B = .ok T) :
    T.opt.length % 4 = 0 := by
  have hwf := hlen_of_decodeSegment hd
  rw [hlen_eq] at hwf
  omega

/-- A header without options has HL = 5 (30_encoding.md R66). -/
theorem hlField_of_hlen {f : Half} (h : hlen f = 20) : hlField f = 5#4 := by
  apply BitVec.eq_of_toNat_eq
  rw [hlen_eq] at h
  rw [toNat_hlField, BitVec.toNat_ofNat]
  omega

/-- Settles O30: the datagram of 20 bytes is a bare SYN. -/
theorem decodedSizes : Obligations.DecodedSizes := by
  refine ⟨fun B T maxSeg hd hB => ?_, _, _,
    decodeSegment_encodeSegment (T := buildDraft flagSYN [] State.reset) (by decide), rfl⟩
  have hlen := length_of_decodeSegment hd
  have hwf := hlen_of_decodeSegment hd
  rw [Segment.length] at hlen
  refine ⟨by omega, (length_opt_of_decodeAs hd).2, length_opt_mod_four hd, by omega, by omega,
    fun h20 => hlField_of_hlen (by omega)⟩

end Sys2Proof.Machine
end

section
/-! DECODE and ENCODE on an idle block (41_codec.md R111, R113, R114). -/

namespace Sys2Proof.Machine

open Sys2Proof

/-! ### The two commands -/

theorem exec_decode_ok {s : State} {T : Segment} (h : Idle s)
    (hd : decodeSegment (bufBytes s) = .ok T) :
    exec .decode s = .next (done 0#32 (storeSegment T s)) := by
  rw [exec, execDecode, issue_idle _ h.1]
  simp only [hd]

theorem exec_decode_error {s : State} {c : Code} (h : Idle s)
    (hd : decodeSegment (bufBytes s) = .error c) :
    exec .decode s = .next { s with cc.result := c } := by
  have hc : c ≠ .eIo := by
    rintro rfl
    simpa using decodeAs_error hd
  rw [exec, execDecode, issue_idle _ h.1]
  simp only [hd, raise_idle hc 0#32 h]

theorem exec_encode_fits {s : State} (h : Idle s) (hl : segLen s ≤ s.cfg.maxSeg) :
    exec .encode s =
      .next (done (BitVec.ofNat 32 (segLen s)) (storeBuf (encodeSegment (segOf s)) s)) := by
  rw [exec, execEncode, issue_idle _ h.1, if_neg (Nat.not_lt.2 hl)]

theorem exec_encode_tooLong {s : State} (h : Idle s) (hl : s.cfg.maxSeg < segLen s) :
    exec .encode s = .next { s with cc.result := .eTooLong } := by
  rw [exec, execEncode, issue_idle _ h.1, if_pos hl, raise_idle (c := .eTooLong) nofun 0#32 h]

/-! ### The arrays a command leaves alone -/

theorem readArr_done (n : Word) (s : State) (a : Arr) (i : Nat) :
    readArr (done n s) a i = readArr s a i :=
  readArr_congr (by cases a <;> rfl) rfl i

theorem bufBytes_done (n : Word) (s : State) : bufBytes (done n s) = bufBytes s := rfl

theorem readArr_storeSegment_buf (T : Segment) (s : State) (i : Nat) :
    readArr (storeSegment T s) .buf i = readArr s .buf i :=
  readArr_congr rfl rfl i

theorem readArr_storeBuf_opt (B : List Byte) (s : State) (i : Nat) :
    readArr (storeBuf B s) .opt i = readArr s .opt i :=
  readArr_congr rfl rfl i

theorem readArr_storeBuf_pay (B : List Byte) (s : State) (i : Nat) :
    readArr (storeBuf B s) .pay i = readArr s .pay i :=
  readArr_congr rfl rfl i

/-! ### The lengths S and BUF hold -/

@[simp] theorem length_bufBytes (s : State) : (bufBytes s).length = s.buf.len.toNat :=
  length_readBytes s .buf _

/-- The length registers of S hold the lengths of a segment decoded from BUF. -/
theorem lengths_of_decoded {s : State} {T : Segment} (hd : decodeSegment (bufBytes s) = .ok T) :
    (storeSegment T s).seg.optlen.toNat = T.opt.length ∧
      (storeSegment T s).seg.paylen.toNat = T.pay.length := by
  have hopt := (length_opt_of_decodeAs hd).2
  have hpay := length_pay_of_offered ⟨hd, rfl⟩
  constructor
  · rw [storeSegment_seg_optlen, BitVec.toNat_ofNat, Nat.mod_eq_of_lt (by omega)]
  · rw [storeSegment_seg_paylen, BitVec.toNat_ofNat, Nat.mod_eq_of_lt hpay]

theorem toNat_len_storeBuf {B : List Byte} (h : B.length ≤ 65535) (s : State) :
    (storeBuf B s).buf.len.toNat = B.length := by
  rw [storeBuf_buf_len, BitVec.toNat_ofNat, Nat.mod_eq_of_lt (by omega)]

/-- The bytes of the segment in S have a length BUFLEN can hold, where ENCODE accepts it. -/
theorem length_encoded_le {s : State} (hcfg : s.cfg.Legal) (hl : segLen s ≤ s.cfg.maxSeg) :
    (encodeSegment (segOf s)).length ≤ 65535 := by
  rw [length_encodeSegment, length_segOf]
  exact hl.trans hcfg.2.1

/-- What a completed ENCODE changes (R113). -/
theorem done_storeBuf_idle (n : Word) (B : List Byte) {s : State} (h : Idle s) :
    done n (storeBuf B s) =
      { s with buf := (storeBuf B s).buf, cc.result := .ok, cc.count := n } :=
  done_idle n (s := storeBuf B s) h

/-- Settles O26. -/
theorem decodeLoadsS : Obligations.DecodeLoadsS := by
  refine ⟨decodeCommand_word .decode 0#16, fun s h =>
    ⟨fun _ => exec_decode_error h, fun T hd => ?_⟩⟩
  obtain ⟨hopt, hpay⟩ := lengths_of_decoded hd
  refine ⟨done 0#32 (storeSegment T s), exec_decode_ok h hd, done_idle 0#32 h, rfl, hopt,
    readArr_storeSegment_opt T s, hpay, readArr_storeSegment_pay T s, fun _ => rfl, ?_⟩
  rw [done_seg, hopt, hpay]
  exact ⟨(Nat.add_comm ..).trans (hlen_of_decodeSegment hd).symm, length_opt_mod_four hd,
    (length_of_decodeSegment hd).trans (length_bufBytes s)⟩

/-- Settles O27. -/
theorem encodeWritesBuf : Obligations.EncodeWritesBuf := by
  refine ⟨decodeCommand_word .encode 0#16, fun s h hcfg => ?_⟩
  intro n hdr B
  refine ⟨exec_encode_tooLong h, fun hl => ?_, fun hpay => ?_⟩
  · have hn : (encodeSegment (segOf s)).length = n := by
      rw [length_encodeSegment, length_segOf]
      rfl
    refine ⟨_, exec_encode_fits h hl, done_storeBuf_idle _ _ h, ?_, fun i => ?_, fun i => ?_,
      fun i => ?_⟩
    · exact (toNat_len_storeBuf (length_encoded_le hcfg hl) s).trans hn
    · rw [readArr_done, readArr_storeBuf, hn]
      rfl
    · rw [readArr_done, readArr_storeBuf_opt]
    · rw [readArr_done, readArr_storeBuf_pay]
  · have := hcfg.1
    omega

/-! ### The round trips -/

theorem decoded_of_exec_decode {s t : State} (h : Idle s) (hx : exec .decode s = .next t)
    (hok : t.cc.result = .ok) :
    ∃ T, decodeSegment (bufBytes s) = .ok T ∧ t = done 0#32 (storeSegment T s) := by
  cases hd : decodeSegment (bufBytes s) with
  | ok T => exact ⟨T, rfl, Host.Outcome.next.inj (hx.symm.trans (exec_decode_ok h hd))⟩
  | error c =>
    obtain rfl := Host.Outcome.next.inj (hx.symm.trans (exec_decode_error h hd))
    obtain rfl : c = .ok := hok
    simpa using decodeAs_error hd

theorem fits_of_exec_encode {s t : State} (h : Idle s) (hx : exec .encode s = .next t)
    (hok : t.cc.result = .ok) :
    segLen s ≤ s.cfg.maxSeg ∧
      t = done (BitVec.ofNat 32 (segLen s)) (storeBuf (encodeSegment (segOf s)) s) := by
  by_cases hl : segLen s ≤ s.cfg.maxSeg
  · exact ⟨hl, Host.Outcome.next.inj (hx.symm.trans (exec_encode_fits h hl))⟩
  · obtain rfl := Host.Outcome.next.inj (hx.symm.trans (exec_encode_tooLong h (Nat.not_le.1 hl)))
    nomatch hok

/-- The segment S holds after a DECODE is the decoded one. -/
theorem segOf_storeSegment_decoded {s : State} {T : Segment}
    (hd : decodeSegment (bufBytes s) = .ok T) : segOf (storeSegment T s) = T := by
  have hopt := (length_opt_of_decodeAs hd).2
  have hpay := length_pay_of_offered ⟨hd, rfl⟩
  exact segOf_storeSegment T s (by omega) (by omega)

/-- Storing an array's own first bytes into it leaves every byte as it was. -/
theorem readArr_own_bytes (s : State) (a : Arr) (n i : Nat) :
    (if i < (readBytes s a n).length then (readBytes s a n).getD i 0#8 else readArr s a i) =
      readArr s a i := by
  split_ifs with hi
  · rw [List.getD_eq_getElem _ _ hi, getElem_readBytes]
  · rfl

/-- R114 (d), first half: BUF gets its own bytes. -/
theorem exec_encode_of_decoded {s : State} {T : Segment} (hl : s.buf.len.toNat ≤ s.cfg.maxSeg)
    (hd : decodeSegment (bufBytes s) = .ok T) :
    exec .encode (done 0#32 (storeSegment T s)) =
      .next (done (BitVec.ofNat 32 s.buf.len.toNat)
        (storeBuf (bufBytes s) (done 0#32 (storeSegment T s)))) := by
  have hseg : segOf (done 0#32 (storeSegment T s)) = T := segOf_storeSegment_decoded hd
  have hlen : segLen (done 0#32 (storeSegment T s)) = s.buf.len.toNat := by
    rw [← length_segOf, hseg, length_of_decodeSegment hd, length_bufBytes]
  rw [exec_encode_fits ⟨rfl, rfl⟩ (hlen.trans_le hl), hlen, hseg,
    encodeSegment_of_decodeSegment hd]

/-- R114 (d), second half: S gets its own segment. -/
theorem exec_decode_of_encoded {s : State} (n : Word) (hcfg : s.cfg.Legal)
    (hl : segLen s ≤ s.cfg.maxSeg) (hwf : segWellFormed s) :
    exec .decode (done n (storeBuf (encodeSegment (segOf s)) s)) =
      .next (done 0#32
        (storeSegment (segOf s) (done n (storeBuf (encodeSegment (segOf s)) s)))) := by
  have hopt : (segOf s).opt.length = s.seg.optlen.toNat := length_readBytes s .opt _
  refine exec_decode_ok ⟨rfl, rfl⟩ ?_
  rw [bufBytes_done, bufBytes_storeBuf _ s (length_encoded_le hcfg hl)]
  apply decodeSegment_encodeSegment
  rw [hopt, Nat.add_comm]
  exact hwf.symm

/-- Settles O29. -/
theorem decodeAndEncodeCommandsRoundTrip : Obligations.DecodeAndEncodeCommandsRoundTrip := by
  refine ⟨fun s t h _ hl hx hok => ?_, fun s t h hcfg hwf hx hok => ?_⟩
  · obtain ⟨T, hd, rfl⟩ := decoded_of_exec_decode h hx hok
    refine ⟨_, exec_encode_of_decoded hl hd, rfl, ?_, ?_, fun i => ?_⟩
    · rw [done_buf, storeBuf_buf_len, length_bufBytes, BitVec.ofNat_toNat, BitVec.setWidth_eq]
    · rw [done_cc_count, BitVec.toNat_ofNat, Nat.mod_eq_of_lt (by have := s.buf.len.isLt; omega)]
    · rw [readArr_done, readArr_storeBuf, readArr_done, readArr_storeSegment_buf]
      exact readArr_own_bytes s .buf s.buf.len.toNat i
  · obtain ⟨hl, rfl⟩ := fits_of_exec_encode h hx hok
    refine ⟨_, exec_decode_of_encoded _ hcfg hl hwf, rfl, rfl, ?_, ?_, fun i => ?_, fun i => ?_⟩
    · rw [done_seg, storeSegment_seg_optlen, segOf, optBytes, length_readBytes,
        BitVec.ofNat_toNat, BitVec.setWidth_eq]
    · rw [done_seg, storeSegment_seg_paylen, segOf, payBytes, length_readBytes,
        BitVec.ofNat_toNat, BitVec.setWidth_eq]
    · rw [readArr_done, readArr_storeSegment_opt, readArr_done, readArr_storeBuf_opt]
      exact readArr_own_bytes s .opt s.seg.optlen.toNat i
    · rw [readArr_done, readArr_storeSegment_pay, readArr_done, readArr_storeBuf_pay]
      exact readArr_own_bytes s .pay s.seg.paylen.toNat i

end Sys2Proof.Machine
end

section
/-! The rules of the FSM unit that its statements share: which STATE a command needs (42_fsm.md
R132), what a waiting command decides by the control bits (R140 to R143), and how a transmission
goes on (20_memory.md R52). -/

namespace Sys2Proof.Machine

open Sys2Proof

/-! ### Commands -/

theorem issue_needState_is {c : ConnState} (run : State → State) {s : State}
    (hb : s.cc.busy = false) (hs : s.ctx.state = c) : issue (needState c run) s = run s :=
  (issue_idle _ hb).trans (needState_is run hs)

theorem issue_needState_other {c : ConnState} (run : State → State) {s : State}
    (hb : s.cc.busy = false) (hs : s.ctx.state ≠ c) :
    issue (needState c run) s = raise .eState 0#32 s :=
  (issue_idle _ hb).trans (needState_other run hs)

/-- CTX_LOAD, CONNECT and ACCEPT run in Closed alone (R132). -/
theorem exec_notClosed {i : Instr} {s : State} (hi : i ∈ [Instr.ctxLoad, .connect, .accept])
    (hb : s.cc.busy = false) (hs : s.ctx.state ≠ .closed) :
    exec i s = .next (raise .eState 0#32 s) := by
  obtain rfl | rfl | rfl := by simpa using hi
  all_goals exact congrArg _ (issue_needState_other _ hb hs)

/-- RECV, SEND and CLOSE run in Established alone (R132). -/
theorem exec_notEstablished {i : Instr} {s : State} (hi : i ∈ [Instr.recv, .send, .close])
    (hb : s.cc.busy = false) (hs : s.ctx.state ≠ .established) :
    exec i s = .next (raise .eState 0#32 s) := by
  obtain rfl | rfl | rfl := by simpa using hi
  all_goals exact congrArg _ (issue_needState_other _ hb hs)

/-! ### Waits -/

theorem phase_of_waiting {c : Cmd} {s : State} (h : Waiting c s) : s.hid.phase = .rxWait := h.2.1

theorem cur_of_waiting {c : Cmd} {s : State} (h : Waiting c s) : s.hid.cur = c := h.2.2

theorem failClosed_ctx_state (c : Code) (e : Word) (s : State) :
    (failClosed c e s).ctx.state = .closed :=
  congrArg _ (raise_ctx c e _)

/-! ### The decisions, by the control bits of the segment in S -/

theorem connectDecide_synAck {s : State} (h : segCtrl s = Kind.synAck.flags) :
    connectDecide s =
      transmit (build Kind.ack.flags [] (adoptCounters 1#32 s)) (failClosed .eIo)
        (fun t => done 0#32 (setConn .established t)) (adoptCounters 1#32 s) :=
  if_pos h

theorem connectDecide_other {s : State} (h : segCtrl s ≠ Kind.synAck.flags) :
    connectDecide s = failClosed .eHandshake 0#32 s :=
  if_neg h

theorem acceptDecide_ack {s : State} (h : segCtrl s = Kind.ack.flags) :
    acceptDecide s = done 0#32 (setConn .established (adoptCounters 0#32 s)) :=
  if_pos h

theorem acceptDecide_other {s : State} (h : segCtrl s ≠ Kind.ack.flags) :
    acceptDecide s = failClosed .eHandshake 0#32 s :=
  if_neg h

theorem recvDecide_pshAck {s : State} (h : segCtrl s = Kind.pshAck.flags) :
    recvDecide s =
      transmit (build Kind.ack.flags [] (adoptCounters (s.seg.paylen.setWidth 32) s)) (raise .eIo)
        (fun t => done (t.seg.paylen.setWidth 32) t)
        (adoptCounters (s.seg.paylen.setWidth 32) s) :=
  if_pos h

theorem sendDecide_ack {s : State} (h : segCtrl s = Kind.ack.flags) :
    sendDecide s = done (s.hid.sendLen.setWidth 32) (adoptCounters 0#32 s) :=
  if_pos h

theorem sendDecide_other {s : State} (h : segCtrl s ≠ Kind.ack.flags) :
    sendDecide s = raise .eBrokenPipe 0#32 s :=
  if_neg h

/-- What holds after either answer of the link holds after the transmission. -/
theorem transmit_induction {P : State → Prop} {B : List Byte} {onErr : Word → State → State}
    {onOk : State → State} {s : State} (hok : P (onOk (linkTx B s)))
    (herr : ∀ e, P (onErr e (linkTx B s))) : P (transmit B onErr onOk s) := by
  obtain ⟨-, h⟩ | ⟨e, -, h⟩ := transmit_cases B onErr onOk s
  · rwa [h]
  · rw [h]
    exact herr e

end Sys2Proof.Machine
end

section
/-! Where STATE goes: the table of 42_fsm.md R131. A command moves it from the STATE it needs (R132);
a wait moves it where CONNECT or ACCEPT ends (R137, R140, R141); no host access moves it. -/

namespace Sys2Proof.Machine

open Sys2Proof

/-! ### Commands -/

theorem closed_of_move {i : Instr} {s t : State} (hi : i ∈ [Instr.ctxLoad, .connect, .accept])
    (hb : s.cc.busy = false) (h : exec i s = .next t) (hne : t.ctx.state ≠ s.ctx.state) :
    s.ctx.state = .closed := by
  by_contra hs
  obtain rfl := Host.Outcome.next.inj (h.symm.trans (exec_notClosed hi hb hs))
  exact hne (congrArg _ (raise_ctx _ _ s))

/-- A command that moves STATE moves it as its row of the table says. -/
theorem stateMove_of_command {s t : State} {w : Word} {i : Instr} (h : BlockInv s)
    (head : HostHead (.write .cmd w) s) (hb : s.cc.busy = false) (hd : decodeCommand w = .ok i)
    (hx : exec i (answer .ok (popInput s)) = .next t) (hne : t.ctx.state ≠ s.ctx.state) :
    StateMove s t := by
  have hf := head.fetch_run hb hd
  have closed (hi : i ∈ [Instr.ctxLoad, .connect, .accept]) : s.ctx.state = .closed :=
    closed_of_move (s := answer .ok (popInput s)) hi hb hx hne
  cases exec_case hx with
  | refused _ => exact absurd rfl hne
  | turned f hi => exact absurd (encode_of_decodeCommand hd) (hi w)
  | ran _ _ hc =>
    cases hc with
    | ctxLoad => exact .ctxLoad _ hf (closed (by simp)) rfl
    | connectWaits B => exact .connect _ hf (closed (by simp)) rfl
    | acceptWaits B => exact .accept _ hf (closed (by simp)) rfl
    | close B => exact .close _ hf ((h.atRest hb).resolve_left (Ne.symm hne)) rfl
    | connectFailed B e =>
      exact absurd ((failClosed_ctx_state _ e _).trans (closed (by simp)).symm) hne
    | acceptFailed B e =>
      exact absurd ((failClosed_ctx_state _ e _).trans (closed (by simp)).symm) hne
    | _ => exact absurd (by simp) hne

/-! ### A waiting command -/

/-- CONNECT or ACCEPT waits, in its STATE. -/
def HandshakeWait (s : State) : Prop :=
  Waiting .connect s ∧ s.ctx.state = .synSent ∨ Waiting .accept s ∧ s.ctx.state = .synRcvd

/-- CONNECT or ACCEPT has ended in Closed with one of the codes the table names. -/
structure HandshakeFailed (t : State) : Prop where
  code : t.cc.result = .eHandshake ∨ t.cc.result = .eIo ∨ t.cc.result = .eMalformed
  closed : t.ctx.state = .closed

theorem handshakeFailed_failClosed {c : Code}
    (hc : c = .eHandshake ∨ c = .eIo ∨ c = .eMalformed) (e : Word) (s : State) :
    HandshakeFailed (failClosed c e s) :=
  ⟨by rwa [failClosed, raise_cc_result], failClosed_ctx_state c e s⟩

/-- The waits the invariant admits. -/
theorem BlockInv.wait_cases {s : State} (h : BlockInv s) (hp : s.hid.phase = .rxWait) :
    (Waiting .connect s ∧ s.ctx.state = .synSent) ∨
      (Waiting .accept s ∧ s.ctx.state = .synRcvd) ∨ Waiting .recv s ∨ Waiting .send s := by
  have hb : s.cc.busy = true := by
    by_contra hb
    exact absurd ((h.idleState (Bool.not_eq_true _ ▸ hb)).1.symm.trans hp) nofun
  have hw := h.waitState_of_rxWait hp
  have stands {c : Cmd} {st : ConnState} (hc : s.hid.cur = c) (hst : waitState c = some st) :
      s.ctx.state = st := Option.some.inj (hw.symm.trans (hc ▸ hst))
  cases hc : s.hid.cur with
  | connect => exact .inl ⟨⟨hb, hp, hc⟩, stands hc rfl⟩
  | accept => exact .inr (.inl ⟨⟨hb, hp, hc⟩, stands hc rfl⟩)
  | recv => exact .inr (.inr (.inl ⟨hb, hp, hc⟩))
  | send => exact .inr (.inr (.inr ⟨hb, hp, hc⟩))
  | _ => rw [hc] at hw; cases hw

/-- A failed wait of RECV or SEND leaves STATE, and one of CONNECT or ACCEPT closes it. -/
theorem failWait_state {s : State} (h : BlockInv s) (hp : s.hid.phase = .rxWait)
    {c : Code} (hc : c = .eHandshake ∨ c = .eIo ∨ c = .eMalformed) (e : Word) :
    (failWait c e s).ctx.state = s.ctx.state ∨
      HandshakeWait s ∧ HandshakeFailed (failWait c e s) := by
  obtain ⟨hw, hs⟩ | ⟨hw, hs⟩ | hw | hw := h.wait_cases hp
  · rw [failWait_handshake c e (.inl (cur_of_waiting hw))]
    exact .inr ⟨.inl ⟨hw, hs⟩, handshakeFailed_failClosed hc e s⟩
  · rw [failWait_handshake c e (.inr (cur_of_waiting hw))]
    exact .inr ⟨.inr ⟨hw, hs⟩, handshakeFailed_failClosed hc e s⟩
  · rw [failWait_transfer c e (.inl (cur_of_waiting hw)), raise_ctx]
    exact .inl rfl
  · rw [failWait_transfer c e (.inr (cur_of_waiting hw)), raise_ctx]
    exact .inl rfl

theorem connectDecide_state (s : State) :
    (segCtrl s = Kind.synAck.flags ∧ (connectDecide s).ctx.state = .established) ∨
      HandshakeFailed (connectDecide s) := by
  by_cases hc : segCtrl s = Kind.synAck.flags
  · rw [connectDecide_synAck hc]
    exact transmit_induction
      (P := fun t => (segCtrl s = _ ∧ t.ctx.state = .established) ∨ HandshakeFailed t)
      (.inl ⟨hc, rfl⟩) fun e => .inr (handshakeFailed_failClosed (.inr (.inl rfl)) e _)
  · rw [connectDecide_other hc]
    exact .inr (handshakeFailed_failClosed (.inl rfl) _ s)

theorem acceptDecide_state (s : State) :
    (segCtrl s = Kind.ack.flags ∧ (acceptDecide s).ctx.state = .established) ∨
      HandshakeFailed (acceptDecide s) := by
  by_cases hc : segCtrl s = Kind.ack.flags
  · rw [acceptDecide_ack hc]
    exact .inl ⟨hc, rfl⟩
  · rw [acceptDecide_other hc]
    exact .inr (handshakeFailed_failClosed (.inl rfl) _ s)

theorem recvDecide_state (s : State) : (recvDecide s).ctx.state = s.ctx.state := by
  by_cases hc : segCtrl s = Kind.pshAck.flags
  · rw [recvDecide_pshAck hc]
    exact transmit_induction (P := fun t => t.ctx.state = s.ctx.state) rfl
      fun e => by rw [raise_ctx]; rfl
  · rw [recvDecide_skips hc]

theorem sendDecide_state (s : State) : (sendDecide s).ctx.state = s.ctx.state := by
  by_cases hc : segCtrl s = Kind.ack.flags
  · rw [sendDecide_ack hc]
    rfl
  · rw [sendDecide_other hc, raise_ctx]

/-- What a waiting command's decision on a segment with the control bits `c` makes of STATE. -/
inductive DecisionMove (c : Half) (s t : State) : Prop
  | kept (h : t.ctx.state = s.ctx.state)
  | failed (hs : HandshakeWait s) (ht : HandshakeFailed t)
  | connected (hw : Waiting .connect s) (hs : s.ctx.state = .synSent) (hc : c = Kind.synAck.flags)
      (ht : t.ctx.state = .established)
  | accepted (hw : Waiting .accept s) (hs : s.ctx.state = .synRcvd) (hc : c = Kind.ack.flags)
      (ht : t.ctx.state = .established)

theorem decisionMove_decideMatch {s : State} (h : BlockInv s) (hp : s.hid.phase = .rxWait) :
    DecisionMove (segCtrl s) s (decideMatch s) := by
  obtain ⟨hw, hs⟩ | ⟨hw, hs⟩ | hw | hw := h.wait_cases hp
  · rw [decideMatch_connect (cur_of_waiting hw)]
    obtain ⟨hc, ht⟩ | ht := connectDecide_state s
    · exact .connected hw hs hc ht
    · exact .failed (.inl ⟨hw, hs⟩) ht
  · rw [decideMatch_accept (cur_of_waiting hw)]
    obtain ⟨hc, ht⟩ | ht := acceptDecide_state s
    · exact .accepted hw hs hc ht
    · exact .failed (.inr ⟨hw, hs⟩) ht
  · rw [decideMatch_recv (cur_of_waiting hw)]
    exact .kept (recvDecide_state s)
  · rw [decideMatch_send (cur_of_waiting hw)]
    exact .kept (sendDecide_state s)

theorem HandshakeFailed.stateMove {s t : State} {ev : LinkEvent} {rest : List Input}
    (ht : HandshakeFailed t) (hi : s.env.inbox = .link ev :: rest) (hs : HandshakeWait s) :
    StateMove s t :=
  .failed ev rest hi hs ht.code ht.closed

/-- A segment whose control bits are a kind's is run as that kind (30_encoding.md R69; log 10). -/
theorem fetch_decoded_kind {s : State} {B : List Byte} {rest : List Input} {T : Segment} {k : Kind}
    (hcfg : s.cfg.Legal) (hi : s.env.inbox = .link (.dgram B) :: rest)
    (hp : s.hid.phase = .rxWait)
    (hd : decodeAs (be16 (B.take s.cfg.maxSeg) 12) (bufBytes (taken B s)) = .ok T)
    (hc : segCtrl (storeSegment T (taken B s)) = k.flags) :
    ∃ hl rsv, fetch s = .run (k.toInstr hl rsv) (taken B s) := by
  have h20 := ((decodeAs_ok_iff _ _ T).1 hd).1
  rw [bufBytes_taken B hcfg] at h20
  have hctrl : ctrl s.cfg.flagMask (be16 (B.take s.cfg.maxSeg) 12) = k.flags :=
    flags_of_decodeAs hd ▸ hc
  exact ⟨_, _, fetch_datagram_kind hi hp h20 ((decodeFlags_ok_iff _ _ _).2 ⟨k, hctrl, rfl⟩)⟩

theorem stateMove_of_datagram {s t : State} {B : List Byte} {rest : List Input}
    (h : BlockInv s) (hi : s.env.inbox = .link (.dgram B) :: rest) (hp : s.hid.phase = .rxWait)
    (hs : step s = .next t) (hne : t.ctx.state ≠ s.ctx.state) : StateMove s t := by
  obtain rfl := Host.Outcome.next.inj (hs.symm.trans (step_datagram_turn h.cfgLegal hi hp))
  obtain hf | ⟨-, -, hf⟩ | ⟨T, -, hd, hf | ⟨-, hf⟩⟩ :=
      rxSegment_cases (be16 (B.take s.cfg.maxSeg) 12) (taken B s) <;> rw [hf] at hne ⊢
  · exact absurd rfl hne
  · obtain hk | ⟨hw, ht⟩ := failWait_state (h.taken B) hp (.inr (.inr rfl)) 0#32
    · exact absurd hk hne
    · exact ht.stateMove hi hw
  · exact absurd rfl hne
  · have stored : BlockInv (storeSegment T (taken B s)) :=
      (h.taken B).of_store ((h.taken B).store.decoded hd) rfl rfl rfl
    cases decisionMove_decideMatch stored hp with
    | kept hk => exact absurd hk hne
    | failed hw ht => exact ht.stateMove hi hw
    | connected hw hs hc ht =>
      obtain ⟨hl, rsv, hf⟩ := fetch_decoded_kind h.cfgLegal hi hp hd hc
      exact .connected hl rsv _ hf hw hs ht
    | accepted hw hs hc ht =>
      obtain ⟨hl, rsv, hf⟩ := fetch_decoded_kind h.cfgLegal hi hp hd hc
      exact .accepted hl rsv _ hf hw hs ht

/-! ### The step -/

/-- No host access but a command moves STATE (10_state.md R35). -/
theorem hostAccess_ctx_state (op : HostOp) (s : State) :
    (hostAccess op s).ctx.state = s.ctx.state := by
  cases op with
  | read r =>
    rw [hostAccess]
    unfold hostRead
    split
    · rfl
    · rfl
    · split_ifs <;> rfl
  | write r w =>
    by_cases hr : r = .status
    · subst hr
      rw [hostAccess, hostWrite_status]
      rfl
    · rw [hostAccess, hostWrite_eq hr]
      split_ifs
      · exact setReg_ctx_state s w r
      · rfl
  | readByte a i => rw [hostAccess, hostReadByte]; split_ifs <;> rfl
  | writeByte a i b =>
    rw [hostAccess, hostWriteByte]
    split_ifs
    · rfl
    · exact congrArg _ (writeArr_ctx s a i b)
    · rfl

/-- Settles O50, by the case analysis of `step_case`. -/
theorem stateMovesAreTheTables : Obligations.StateMovesAreTheTables := by
  intro s t h hs hne
  cases step_case hs with
  | nothing => exact absurd rfl hne
  | refused r => exact absurd rfl hne
  | access op r hop => exact absurd (hostAccess_ctx_state op (popInput s)) hne
  | illegal w r hi hb => exact absurd rfl hne
  | command w i t hi hb hd hx => exact stateMove_of_command h hi hb hd hx hne
  | passed => exact absurd rfl hne
  | linkError e hi hp =>
    obtain ⟨rest, hi⟩ := List.head?_eq_some_iff.1 hi
    obtain hk | ⟨hw, ht⟩ :=
      failWait_state (h.popInput.takeEvent (.err e)) hp (.inr (.inl rfl)) e
    · exact absurd hk hne
    · exact ht.stateMove hi hw
  | datagram B f hi hp =>
    obtain ⟨rest, hi⟩ := List.head?_eq_some_iff.1 hi
    exact stateMove_of_datagram h hi hp hs hne
  | reset hi =>
    obtain ⟨rest, hi⟩ := List.head?_eq_some_iff.1 hi
    exact .reset rest hi rfl

end Sys2Proof.Machine
end

section
/-! The segment `build` makes, and the FSM commands up to their waits (42_fsm.md R134, R139 to
R144). -/

namespace Sys2Proof.Machine

open Sys2Proof

/-! ### build -/

/-- The draft of `build`, its flags field put together (30_encoding.md R67). -/
theorem buildDraft_of_control {c : Half} (hc : c &&& 0xF000#16 = 0#16) (P : List Byte) (s : State) :
    buildDraft c P s =
      { hdr :=
          { src := s.ctx.lport, dst := s.ctx.pport, seqnum := s.ctx.seq, acknum := s.ctx.ack
            flags := 0x5000#16 ||| c, window := s.cfg.txWindow, checksum := 0x0000#16
            urgent := 0x0000#16 }
        opt := []
        pay := P } := by
  rw [buildDraft, mkflags_20 hc]

theorem decodeSegment_build (c : Half) (P : List Byte) (s : State) :
    decodeSegment (build c P s) = .ok (buildSegment c P s) :=
  decodeSegment_encodeSegment (T := buildSegment c P s) (hlen_mkflags c (by decide) rfl)

/-- Settles O33. -/
theorem buildMakesTheRulesSegment : Obligations.BuildMakesTheRulesSegment := by
  intro c P s hc draft
  have hsegment : buildSegment c P s =
      draft.withChecksum (tcpsum s.laddr s.ctx.paddr draft) := by
    rw [buildSegment, buildDraft_of_control hc]
  refine ⟨?_, ?_, length_build c P s, fun _ _ _ => rfl⟩
  · rw [build, hsegment]
  · rw [decodeSegment_build, hsegment]

/-! ### The commands -/

/-- A handshake command gives its segment to the link, and waits, or ends in Closed with the link's
code (R137, R140, R141). -/
theorem transmit_handshake (c : Cmd) (B : List Byte) {s : State} (h : Idle s) :
    (nextAnswer s = .ok →
      transmit B (failClosed .eIo) (enterWait c) s =
        { linkTx B s with cc.busy := true, hid.cur := c, hid.phase := .rxWait }) ∧
    ∀ e, nextAnswer s = .err e →
      transmit B (failClosed .eIo) (enterWait c) s =
        { linkTx B s with ctx.state := .closed, cc.result := .eIo, cc.ioerr := e } := by
  refine ⟨fun ha => ?_, fun e ha => ?_⟩
  · rw [transmit_ok _ _ _ ha]
    rfl
  · rw [transmit_err _ _ _ ha]
    exact raiseIo_idle e (s := setConn .closed (linkTx B s)) h

/-- Settles O32. -/
theorem ctxLoadAdoptsTheContext : Obligations.CtxLoadAdoptsTheContext := by
  refine ⟨decodeCommand_word .ctxLoad 0#16, fun s h => ⟨fun hs => ?_, fun hs => ?_⟩⟩
  · rw [exec_notClosed (by simp) h.1 hs, raise_idle (c := .eState) nofun 0#32 h]
  · rw [exec, execCtxLoad, issue_needState_is _ h.1 hs]
    exact congrArg _ (done_idle 0#32 (s := setConn .established s) h)

/-- Settles O34: `r` is the state CONNECT transmits from. -/
theorem connectSendsTheSyn : Obligations.ConnectSendsTheSyn := by
  refine ⟨decodeCommand_word .connect 0#16, fun s h hs => ?_⟩
  intro r
  obtain ⟨hok, herr⟩ := transmit_handshake .connect (build Kind.syn.flags [] r) (s := r) h
  rw [exec, execConnect, issue_needState_is _ h.1 hs]
  exact ⟨fun ha => congrArg _ (hok ha), fun e ha => congrArg _ (herr e ha)⟩

/-- Settles O35: `r` is the state ACCEPT transmits from. -/
theorem acceptSendsTheSynAck : Obligations.AcceptSendsTheSynAck := by
  refine ⟨decodeCommand_word .accept 0#16, fun s h hs => ?_⟩
  intro r
  obtain ⟨hok, herr⟩ := transmit_handshake .accept (build Kind.synAck.flags [] r) (s := r) h
  rw [exec, execAccept, issue_needState_is _ h.1 hs]
  exact ⟨fun ha => congrArg _ (hok ha), fun e ha => congrArg _ (herr e ha)⟩

/-- Settles O37. -/
theorem sendTransmitsThePayload : Obligations.SendTransmitsThePayload := by
  refine ⟨decodeCommand_word .send 0#16, fun s h hs => ?_⟩
  intro B
  rw [exec, execSend, issue_needState_is _ h.1 hs]
  refine ⟨fun ha => ?_, fun e ha => ?_⟩
  · rw [transmit_ok _ _ _ ha]
    rfl
  · rw [transmit_err _ _ _ ha]
    exact congrArg _ (raiseIo_idle e (s := linkTx B s) h)

/-- Settles O38: no case on the link's answer is needed, for CLOSE does not ask. -/
theorem closeIsFireAndForget : Obligations.CloseIsFireAndForget := by
  refine ⟨decodeCommand_word .close 0#16, fun s h => ⟨fun hs => ?_, fun hs => ?_⟩⟩
  · rw [exec_notEstablished (by simp) h.1 hs, raise_idle (c := .eState) nofun 0#32 h]
  · rw [exec, execClose, issue_needState_is _ h.1 hs]
    exact congrArg _
      (done_idle 0#32 (s := setConn .closed (linkTx (build Kind.finAck.flags [] s) s)) h)

end Sys2Proof.Machine
end

section
/-! The segment kinds that complete CONNECT, ACCEPT and SEND (42_fsm.md R138, R140, R141, R143). -/

namespace Sys2Proof.Machine

open Sys2Proof

/-- An ACK takes up no sequence number (R138). -/
theorem adoptCounters_zero (s : State) :
    adoptCounters 0#32 s = setCounters s.seg.hdr.acknum s.seg.hdr.seqnum s := by
  rw [adoptCounters, BitVec.add_zero]

/-- Settles O39: the command transmits from the state with the segment in S and SEQ and ACK taken
from it. -/
theorem synAckCompletesConnect : Obligations.SynAckCompletesConnect := by
  intro s hl rsv T hcfg hw ho hm hr r
  have hx : exec (.segSynAck hl rsv) s = .next (transmit (build Kind.ack.flags [] r)
      (failClosed .eIo) (fun t => done 0#32 (setConn .established t)) r) := by
    refine (exec_kind_matching (k := .synAck) (phase_of_waiting hw) ho hm).trans (congrArg _ ?_)
    rw [decideMatch_connect (s := storeSegment T s) (cur_of_waiting hw),
      connectDecide_synAck (segCtrl_storeSegment_offered hcfg ho hr)]
    rfl
  refine ⟨fun ha => ?_, fun e ha => ?_⟩
  · rw [hx, transmit_ok _ _ _ (s := r) ha]
    rfl
  · rw [hx, transmit_err _ _ _ (s := r) ha]
    rfl

/-- Settles O40. -/
theorem ackCompletesAccept : Obligations.AckCompletesAccept := by
  intro s hl rsv T hcfg hw ho hm hr
  refine (exec_kind_matching (k := .ack) (phase_of_waiting hw) ho hm).trans (congrArg _ ?_)
  rw [decideMatch_accept (s := storeSegment T s) (cur_of_waiting hw),
    acceptDecide_ack (segCtrl_storeSegment_offered hcfg ho hr), adoptCounters_zero]
  rfl

/-- Settles O41. -/
theorem ackCompletesSend : Obligations.AckCompletesSend := by
  intro s hl rsv T hcfg hw ho hm hr
  refine (exec_kind_matching (k := .ack) (phase_of_waiting hw) ho hm).trans (congrArg _ ?_)
  rw [decideMatch_send (s := storeSegment T s) (cur_of_waiting hw),
    sendDecide_ack (segCtrl_storeSegment_offered hcfg ho hr), adoptCounters_zero]
  rfl

end Sys2Proof.Machine
end

section
/-! Link events that decide nothing: an error, a bad header length, a datagram too short, a segment
of other ports (42_fsm.md R135 to R137; 60_exceptions.md R178, R179). -/

namespace Sys2Proof.Machine

open Sys2Proof

/-! ### Errors of the link -/

/-- The link's error, taken from the pending inputs and recorded. -/
theorem takeEvent_popInput {s : State} {i : Input} {rest : List Input}
    (hi : s.env.inbox = i :: rest) (ev : LinkEvent) :
    takeEvent ev (popInput s) =
      { s with env.inbox := rest, env.trace := s.env.trace ++ [.rx ev] } := by
  rw [popInput_eq hi]
  rfl

theorem step_linkError {s : State} {e : Word} {rest : List Input}
    (hi : s.env.inbox = .link (.err e) :: rest) (hp : s.hid.phase = .rxWait) :
    step s = .next (failWait .eIo e
      { s with env.inbox := rest, env.trace := s.env.trace ++ [.rx (.err e)] }) := by
  rw [← takeEvent_popInput hi]
  exact step_settled (by simp [fetch_link hi, fetchLink, hp])

/-- Settles O46. -/
theorem linkErrorEndsTheWait : Obligations.LinkErrorEndsTheWait := by
  intro s e rest hi r
  refine ⟨fun hw => ?_, fun hw => ?_⟩
  · rw [step_linkError hi (hw.elim phase_of_waiting phase_of_waiting),
      failWait_handshake (s := r) _ _ (hw.imp cur_of_waiting cur_of_waiting)]
    rfl
  · rw [step_linkError hi (hw.elim phase_of_waiting phase_of_waiting),
      failWait_transfer (s := r) _ _ (hw.imp cur_of_waiting cur_of_waiting)]
    rfl

/-! ### Datagrams that do not decode, or do not match -/

theorem decodeAs_badHlen {f : Half} {B : List Byte} (h20 : 20 ≤ B.length)
    (hbad : hlen f < 20 ∨ B.length < hlen f) : ∃ c, c ≠ .eShort ∧ decodeAs f B = .error c := by
  cases hd : decodeAs f B with
  | error c =>
    refine ⟨c, ?_, rfl⟩
    rintro rfl
    obtain ⟨-, hshort⟩ | ⟨h, -⟩ | ⟨h, -⟩ := decodeAs_error hd
    · omega
    · cases h
    · cases h
  | ok T =>
    obtain ⟨-, hmin, hmax, -⟩ := (decodeAs_ok_iff f B T).1 hd
    omega

/-- The header length of the datagram in BUF is in its byte 12, which MAX_SEG does not cut off. -/
theorem hlen_be16_take {B : List Byte} {n : Nat} (h20 : 20 ≤ (B.take n).length) :
    hlen (be16 (B.take n) 12) = 4 * ((B.getD 12 0#8).toNat / 16) := by
  rw [List.length_take] at h20
  rw [hlen_be16, List.getD_eq_getElem?_getD, List.getElem?_take_of_lt (by omega),
    ← List.getD_eq_getElem?_getD]

/-- A bad header length leaves the decision to the policy (R135). -/
theorem step_badHlen {s : State} {B : List Byte} {rest : List Input} (hcfg : s.cfg.Legal)
    (hi : s.env.inbox = .link (.dgram B) :: rest) (hp : s.hid.phase = .rxWait)
    (h20 : 20 ≤ (B.take s.cfg.maxSeg).length)
    (hbad : hlen (be16 (B.take s.cfg.maxSeg) 12) < 20 ∨
      (B.take s.cfg.maxSeg).length < hlen (be16 (B.take s.cfg.maxSeg) 12)) :
    (s.cfg.badHlen = .drop → step s = .next (taken B s)) ∧
      (s.cfg.badHlen = .fault → step s = .next (failWait .eMalformed 0#32 (taken B s))) := by
  have hbuf := bufBytes_taken B hcfg
  obtain ⟨c, hc, hd⟩ := decodeAs_badHlen (hbuf ▸ h20) (hbuf ▸ hbad)
  have hturn := rxSegment_badHlen (s := taken B s) hp hd hc
  rw [step_datagram_turn hcfg hi hp, ← hbuf, hturn]
  exact ⟨fun hb => by rw [show (taken B s).cfg.badHlen = .drop from hb],
    fun hb => by rw [show (taken B s).cfg.badHlen = .fault from hb]⟩

/-- Settles O48. -/
theorem noiseIsSkipped : Obligations.NoiseIsSkipped := by
  intro s c B rest hcfg hw hi
  have hp := phase_of_waiting hw
  rw [step_datagram_turn hcfg hi hp]
  refine ⟨fun hshort => congrArg _ ?_, fun T hd hm => congrArg _ ?_⟩
  · refine rxSegment_short (s := taken B s) hp ?_
    rw [bufBytes_taken B hcfg]
    exact if_pos hshort
  · refine rxSegment_other (s := taken B s) hp ?_ hm
    rw [bufBytes_taken B hcfg]
    exact hd

/-! ### E_MALFORMED -/

/-- RESULT has not become E_MALFORMED. -/
def MalformedKept (s t : State) : Prop := t.cc.result = .eMalformed → s.cc.result = .eMalformed

theorem malformedKept_of_eq {s t : State} (h : t.cc.result = s.cc.result) : MalformedKept s t :=
  fun ht => h ▸ ht

theorem malformedKept_raise {c : Code} {e : Word} {s u : State}
    (hc : c ≠ .eMalformed := by decide) : MalformedKept s (raise c e u) :=
  fun ht => absurd ((raise_cc_result c e u).symm.trans ht) hc

theorem malformedKept_failClosed {c : Code} {e : Word} {s u : State}
    (hc : c ≠ .eMalformed := by decide) : MalformedKept s (failClosed c e u) :=
  malformedKept_raise (u := setConn .closed u) hc

theorem malformedKept_done {n : Word} {s u : State} : MalformedKept s (done n u) := nofun

theorem MalformedKept.issue {run : State → State} {s : State} (h : MalformedKept s (run s)) :
    MalformedKept s (issue run s) := by
  cases hb : s.cc.busy with
  | true => rw [issue_busy run hb]; exact malformedKept_of_eq rfl
  | false => rwa [issue_idle run hb]

theorem MalformedKept.needState {run : State → State} {s : State} (h : MalformedKept s (run s))
    (c : ConnState) : MalformedKept s (needState c run s) := by
  by_cases hs : s.ctx.state = c
  · rwa [needState_is run hs]
  · rw [needState_other run hs]
    exact malformedKept_raise

/-- No command completes with E_MALFORMED: the code is of waits alone (60_exceptions.md R179). -/
theorem command_malformedKept (c : Cmd) (imm : Half) (s : State) :
    ∃ t, exec (c.toInstr imm) s = .next t ∧ MalformedKept s t := by
  cases c with
  | csumClr => exact ⟨_, rfl, .issue malformedKept_done⟩
  | csumAdd => exact ⟨_, rfl, .issue malformedKept_done⟩
  | csumAddw => exact ⟨_, rfl, .issue malformedKept_done⟩
  | csumFin => exact ⟨_, rfl, .issue malformedKept_done⟩
  | csumSeg =>
    refine ⟨_, rfl, .issue ?_⟩
    split_ifs
    · exact malformedKept_raise
    · exact malformedKept_done
  | decode =>
    refine ⟨_, rfl, .issue ?_⟩
    split
    · rename_i code hd
      refine malformedKept_raise ?_
      rintro rfl
      simpa using decodeAs_error hd
    · exact malformedKept_done
  | encode =>
    refine ⟨_, rfl, .issue ?_⟩
    split_ifs
    · exact malformedKept_raise
    · exact malformedKept_done
  | ctxLoad =>
    refine ⟨_, rfl, .issue (.needState ?_ _)⟩
    exact malformedKept_done
  | connect =>
    refine ⟨_, rfl, .issue (.needState ?_ _)⟩
    exact transmit_induction (malformedKept_of_eq rfl) fun _ => malformedKept_failClosed
  | accept =>
    refine ⟨_, rfl, .issue (.needState ?_ _)⟩
    exact transmit_induction (malformedKept_of_eq rfl) fun _ => malformedKept_failClosed
  | recv => exact ⟨_, rfl, .issue (.needState (malformedKept_of_eq rfl) _)⟩
  | send =>
    refine ⟨_, rfl, .issue (.needState ?_ _)⟩
    exact transmit_induction (malformedKept_of_eq rfl) fun _ => malformedKept_raise
  | close =>
    refine ⟨_, rfl, .issue (.needState ?_ _)⟩
    exact malformedKept_done

theorem DecisionCase.malformedKept {s t : State} (hc : DecisionCase s t) : MalformedKept s t := by
  cases hc with
  | skips => exact malformedKept_of_eq rfl
  | refusesHandshake => exact malformedKept_failClosed
  | connectFails B e => exact malformedKept_failClosed
  | receiveFails d B e hc => exact malformedKept_raise
  | breaksPipe hc => exact malformedKept_raise
  | _ => exact malformedKept_done

theorem malformedKept_failWait {c : Code} (hc : c ≠ .eMalformed) (e : Word) (s : State) :
    MalformedKept s (failWait c e s) := by
  obtain hf | ⟨-, hf⟩ | ⟨-, hf⟩ := failWait_cases c e s <;> rw [hf]
  · exact malformedKept_failClosed hc
  · exact malformedKept_raise hc
  · exact malformedKept_of_eq rfl

/-- A turn of `wait_match` gives E_MALFORMED under policy `fault` alone (R135). -/
theorem malformedKept_rxSegment {s : State} (hb : s.cfg.badHlen = .drop) (f : Half) :
    MalformedKept s (rxSegment f s) := by
  obtain hf | ⟨-, hfault, -⟩ | ⟨T, -, -, hf | ⟨-, hf⟩⟩ := rxSegment_cases f s
  · exact malformedKept_of_eq (congrArg (·.cc.result) hf)
  · exact absurd (hb.symm.trans hfault) nofun
  · exact malformedKept_of_eq (congrArg (·.cc.result) hf)
  · rw [hf]
    exact (decideMatch_case (storeSegment T s)).malformedKept

theorem step_malformedKept {s t : State} (hb : s.cfg.badHlen = .drop) (h : step s = .next t) :
    MalformedKept s t := by
  cases step_case h with
  | nothing => exact malformedKept_of_eq rfl
  | refused r => exact malformedKept_of_eq rfl
  | access op r hop => exact malformedKept_of_eq (codesKept_hostAccess op (popInput s)).result
  | illegal w r hi hb => exact malformedKept_raise (c := .eIllegalCmd) (e := 0#32) (u := popInput s)
  | command w i t hi hb hd hx =>
    obtain ⟨c, -, -, rfl⟩ := (decodeCommand_ok_iff w i).1 hd
    obtain ⟨u, hu, hk⟩ := command_malformedKept c (imm16Field w) (answer .ok (popInput s))
    obtain rfl := Host.Outcome.next.inj (hx.symm.trans hu)
    exact hk
  | passed => exact malformedKept_of_eq rfl
  | linkError e hi hp => exact malformedKept_failWait (c := .eIo) nofun e (takeEvent _ (popInput s))
  | datagram B f hi hp => exact malformedKept_rxSegment (s := taken B s) hb f
  | reset hi => exact nofun

/-- Settles O47. -/
theorem badHeaderLengthInAWait : Obligations.BadHeaderLengthInAWait := by
  refine ⟨rfl, fun s t => step_malformedKept, fun s B rest hcfg hi h20 => ?_⟩
  intro h hbad
  have turn (hp : s.hid.phase = .rxWait) :=
    step_badHlen hcfg hi hp h20 (hlen_be16_take h20 ▸ hbad)
  refine ⟨fun hb c hw => (turn (phase_of_waiting hw)).1 hb,
    fun hb => ⟨fun hw => ?_, fun hw => ?_⟩⟩
  · rw [(turn (hw.elim phase_of_waiting phase_of_waiting)).2 hb,
      failWait_handshake (s := taken B s) _ _ (hw.imp cur_of_waiting cur_of_waiting)]
    rfl
  · rw [(turn (hw.elim phase_of_waiting phase_of_waiting)).2 hb,
      failWait_transfer (s := taken B s) _ _ (hw.imp cur_of_waiting cur_of_waiting)]
    rfl

end Sys2Proof.Machine
end

section
/-! Exceptions: an illegal command word, an FSM command in the wrong STATE, and a matching segment
of a kind the waiting command does not look for (60_exceptions.md R172, R173, R176, R177). -/

namespace Sys2Proof.Machine

open Sys2Proof

/-! ### Illegal command words -/

theorem c0Reserved_eq_zero_iff (w : Word) : c0Reserved w = 0#24 ↔ w >>> 8 = 0#32 := by
  rw [← BitVec.toNat_inj, ← BitVec.toNat_inj, toNat_c0Reserved, BitVec.toNat_ushiftRight,
    Nat.shiftRight_eq_div_pow]
  rfl

theorem ciReserved_eq_zero_iff (w : Word) : ciReserved w = 0#8 ↔ w >>> 24 = 0#32 := by
  rw [← BitVec.toNat_inj, ← BitVec.toNat_inj, toNat_ciReserved, BitVec.toNat_ushiftRight,
    Nat.shiftRight_eq_div_pow]
  rfl

/-- The reserved bits of a word by its OPC: CSUM_ADDW alone has an immediate below them (R72). -/
theorem reservedZero_iff {c : Cmd} {w : Word} (ho : c.opcode = opcField w) :
    c.reservedZero w = true ↔
      (opcField w ≠ 0x03#8 → w >>> 8 = 0#32) ∧ (opcField w = 0x03#8 → w >>> 24 = 0#32) := by
  by_cases hc : c = .csumAddw
  · subst hc
    have h3 : opcField w = 0x03#8 := ho.symm
    simp [Cmd.reservedZero, ciReserved_eq_zero_iff, h3]
  · have h3 : opcField w ≠ 0x03#8 := by
      intro h
      have hsome := ofOpcode_opcode c
      rw [ho, h] at hsome
      exact hc (Option.some.inj hsome).symm
    simp [(c.format_c0 hc).2.1, c0Reserved_eq_zero_iff, h3]

theorem exists_ofOpcode_iff (o : BitVec 8) :
    (∃ c, Cmd.ofOpcode o = some c) ↔ o ∈ Cmd.all.map Cmd.opcode := by
  rw [List.mem_map]
  constructor
  · rintro ⟨c, h⟩
    exact ⟨c, List.mem_of_find?_eq_some h, opcode_of_ofOpcode h⟩
  · rintro ⟨c, -, rfl⟩
    exact ⟨c, ofOpcode_opcode c⟩

/-- The legal words: an assigned OPC, and the reserved bits of its format 0 (R74). -/
theorem decodeCommand_legal_iff (w : Word) :
    (∃ i, decodeCommand w = .ok i) ↔
      opcField w ∈ Cmd.all.map Cmd.opcode ∧
        (opcField w ≠ 0x03#8 → w >>> 8 = 0#32) ∧ (opcField w = 0x03#8 → w >>> 24 = 0#32) := by
  rw [← exists_ofOpcode_iff]
  constructor
  · rintro ⟨i, hd⟩
    obtain ⟨c, ho, hr, -⟩ := (decodeCommand_ok_iff w i).1 hd
    exact ⟨⟨c, ho⟩, (reservedZero_iff (opcode_of_ofOpcode ho)).1 hr⟩
  · rintro ⟨⟨c, ho⟩, hr⟩
    exact ⟨_, (decodeCommand_ok_iff w _).2
      ⟨c, ho, (reservedZero_iff (opcode_of_ofOpcode ho)).2 hr, rfl⟩⟩

/-- The OPCs of format C0 are the assigned ones but CSUM_ADDW's (R72, R75). -/
theorem c0_opcodes_assigned :
    ∀ o ∈ [0x01#8, 0x02#8, 0x04#8, 0x05#8, 0x10#8, 0x11#8, 0x20#8, 0x21#8, 0x22#8, 0x23#8,
      0x24#8, 0x25#8], o ∈ Cmd.all.map Cmd.opcode ∧ o ≠ 0x03#8 := by
  decide

/-- Settles O4: each way to be illegal contradicts one part of being a legal word. -/
theorem illegalWordChangesResultOnly : Obligations.IllegalWordChangesResultOnly := by
  refine ⟨rfl, fun s w rest h hi => ⟨fun hbad => ?_, fun ho hr => ?_, fun ho hr => ?_⟩⟩
  · cases hd : decodeCommand w with
    | error e => exact step_illegal h hi hd
    | ok i =>
      obtain ⟨hopc, hc0, hci⟩ := (decodeCommand_legal_iff w).1 ⟨i, hd⟩
      obtain hopc' | ⟨hne, hr⟩ | ⟨heq, hr⟩ := hbad
      · exact absurd hopc hopc'
      · exact absurd (hc0 hne) hr
      · exact absurd (hci heq) hr
  · obtain ⟨hopc, hne⟩ := c0_opcodes_assigned _ ho
    exact (decodeCommand_legal_iff w).2 ⟨hopc, fun _ => hr, fun heq => absurd heq hne⟩
  · refine (decodeCommand_legal_iff w).2 ⟨?_, fun hne => absurd ho hne, fun _ => hr⟩
    exact (exists_ofOpcode_iff _).1 ⟨.csumAddw, congrArg Cmd.ofOpcode ho⟩

/-! ### FSM commands in the wrong STATE -/

/-- Settles O31. -/
theorem wrongStateChangesResultOnly : Obligations.WrongStateChangesResultOnly := by
  refine ⟨rfl, fun s i h => ⟨fun hc hs => ?_, fun hc hs => ?_⟩⟩
  · rw [exec_notClosed hc h.1 hs, raise_idle (c := .eState) nofun 0#32 h]
  · rw [exec_notEstablished hc h.1 hs, raise_idle (c := .eState) nofun 0#32 h]

/-! ### Segments of another kind -/

/-- Settles O44. -/
theorem otherKindFailsTheHandshake : Obligations.OtherKindFailsTheHandshake := by
  refine ⟨rfl, fun s B T rest hcfg hi hd hm => ⟨fun hw hne => ?_, fun hw hne => ?_⟩⟩
  · rw [step_datagram_matching hcfg hi (phase_of_waiting hw) hd hm,
      decideMatch_connect (s := storeSegment T (taken B s)) (cur_of_waiting hw),
      connectDecide_other (s := storeSegment T (taken B s)) hne]
    rfl
  · rw [step_datagram_matching hcfg hi (phase_of_waiting hw) hd hm,
      decideMatch_accept (s := storeSegment T (taken B s)) (cur_of_waiting hw),
      acceptDecide_other (s := storeSegment T (taken B s)) hne]
    rfl

/-- Settles O45. -/
theorem otherKindBreaksThePipe : Obligations.OtherKindBreaksThePipe := by
  refine ⟨rfl, fun s B T rest hcfg hi hd hm hw hne => ?_⟩
  rw [step_datagram_matching hcfg hi (phase_of_waiting hw) hd hm,
    decideMatch_send (s := storeSegment T (taken B s)) (cur_of_waiting hw),
    sendDecide_other (s := storeSegment T (taken B s)) hne]
  rfl

end Sys2Proof.Machine
end

section
/-! Reset as an input (70_reset_and_hazards.md R200 to R202). -/

namespace Sys2Proof.Machine

open Sys2Proof

/-- A reset at the head is taken in any state: no phase and no BUSY is asked for (R201). -/
theorem step_reset {s : State} {rest : List Input} (h : s.env.inbox = .reset :: rest) :
    step s = .next (resetInput (popInput s)) :=
  step_settled (fetch_reset h)

/-- The registers after a reset input read as in `State.reset`, whose values R37 gives: no register
is a parameter, a count of resets or an outside agent. -/
theorem regValue_resetInput (s : State) (r : Reg) : regValue (resetInput s) r = 0#32 := by
  have hreset : regValue (resetInput s) r = regValue State.reset r := by cases r <;> rfl
  exact hreset.trans (resetValues.1 r)

/-- Nothing is stored in an array after a reset input, so every byte is the new epoch's free value
(log 7). -/
theorem readArr_resetInput (s : State) (a : Arr) (i : Nat) :
    readArr (resetInput s) a i = Config.unspecifiedByte (s.epoch + 1) a i := by
  have hempty : arrayOf (resetInput s) a = [] := arrayOf_reset _ _ _ a
  rw [readArr, hempty]
  rfl

/-- Settles O57: the step is `resetInput`, which takes nothing of the link's and makes no draw. -/
theorem resetInputAbandonsAll : Obligations.ResetInputAbandonsAll := by
  intro s rest h
  have hinbox : (resetInput (popInput s)).env.inbox = rest := congrArg List.tail h
  exact ⟨resetInput (popInput s), step_reset h, regValue_resetInput _, ⟨rfl, rfl⟩, rfl,
    readArr_resetInput _, rfl, rfl, hinbox, rfl, rfl⟩

end Sys2Proof.Machine
end
